-- ==== Sys2Proof/Word.lean ====
section
/-! DEFINITION. The word types of the machine (00_scope.md section 5; every value is unsigned). -/

namespace Sys2Proof

/-- `u8`: the contents of a register, a memory cell or an immediate byte. -/
abbrev Byte := BitVec 8

/-- `u16`: an instruction word, `I`, `pc` or a stack entry. -/
abbrev Word := BitVec 16

/-- `u12`: the address field `nnn` (30_encoding.md R61). -/
abbrev Addr12 := BitVec 12

/-- The number of a general register, `0` to `15` (10_state.md R10). -/
abbrev Reg := Fin 16

/-- The number of a key, `0` to `15` (10_state.md R18). -/
abbrev Key := Fin 16

end Sys2Proof
end

