-- ==== Sys2Proof/Config.lean ====
section
/-! DEFINITION. Fixed parameters (00_scope.md R3), open parameters (R4) and the environment's free values. -/

namespace Sys2Proof

/-- Which register `8xy6` and `8xyE` shift: the two variants of the shift quirk (D7). -/
inductive ShiftQuirk where
  /-- the shifted operand is `V[x]` -/
  | srcVx
  /-- the shifted operand is `V[y]` -/
  | srcVy
deriving DecidableEq, Repr, Inhabited

/-- What the input collaborator delivers at a poll (10_state.md R24); a key code is any integer. -/
inductive Event where
  | keyDown (code : Int)
  | keyUp (code : Int)
  | pause
  | resume
  | stop
deriving DecidableEq, Repr

/-- What the environment supplies for one scheduler cycle: the time sample and the event list
(60_exceptions.md R179, R180). -/
structure CycleInput where
  now : Nat
  events : List Event
deriving DecidableEq, Repr

namespace Config

/-- MEM_SIZE. -/
def memSize : Nat := 4096

/-- LOAD_OFFSET, also the entry point (70_reset_and_hazards.md R201, R203). -/
def loadOffset : Nat := 0x200

/-- MAX_PROGRAM = MEM_SIZE − LOAD_OFFSET. -/
def maxProgram : Nat := memSize - loadOffset

/-- FLAG: the flag register `VF` (10_state.md R11, D1). -/
def flagReg : Reg := 15

/-- STACK_DEPTH. -/
def stackDepth : Nat := 16

/-- FB_W: cells in a framebuffer row. -/
def fbWidth : Nat := 64

/-- FB_H: framebuffer rows. -/
def fbHeight : Nat := 32

/-- FB_CELLS. -/
def fbCells : Nat := 2048

/-- GLYPH_BYTES: bytes of one font glyph. -/
def glyphBytes : Nat := 5

/-- INSTR_BYTES. -/
def instrBytes : Nat := 2

/-- MEM_FILL of the machine `State.reset` describes: the recommended instance, all zero
(D20). DESIGN CHOICE, unsafe: log 6. `boot` takes any MEM_FILL. -/
def memFill : Byte := 0

/-- The time sample taken at reset by the machine `State.reset` describes. DESIGN CHOICE,
unsafe: log 7. `boot` takes any sample. -/
def resetTime : Nat := 0

/-- SHIFT_QUIRK: OPEN (D7); nothing fixes which of the two it is. Log 4. -/
opaque shiftQuirk : ShiftQuirk

/-- TICK_INTERVAL less one. Log 5. -/
opaque tickIntervalPred : Nat

/-- TICK_INTERVAL: OPEN, any positive number of time units (D15). Log 5. -/
def tickInterval : Nat := tickIntervalPred + 1

/-- IPS less one. Log 16. -/
opaque ipsPred : Nat

/-- IPS: a positive number of cycles per second, read by no rule (70_reset_and_hazards.md R209). Log 16. -/
def ips : Nat := ipsPred + 1

/-- The byte on port `rand` when State holds none for it: free, by draw number (10_state.md R20). Log 2. -/
opaque freeByte : Nat → Byte

/-- The events of a cycle for which State holds no input: free, by draw number. Log 1. -/
opaque freeEvents : Nat → List Event

/-- By how much `now` grew before a cycle for which State holds no input: free, by draw number
(60_exceptions.md R180: `now` is non-decreasing). Log 1. -/
opaque freeElapsed : Nat → Nat

end Config

end Sys2Proof
end

