-- ==== Sys2Proof/Decode.lean ====
section
/-! DEFINITION. Decoding (30_encoding.md R60 to R66), the encoder, and the decode table as data. -/

namespace Sys2Proof

/-- `w[lo+width−1 : lo]` as an unsigned number (00_scope.md section 5). -/
def bitField (w : Word) (lo width : Nat) : Nat := w.toNat / 2 ^ lo % 2 ^ width

/-- `op = w[15:12]` (R61). -/
def opOf (w : Word) : Nat := bitField w 12 4

/-- `x = w[11:8]` (R61). -/
def xOf (w : Word) : Reg := Fin.ofNat 16 (bitField w 8 4)

/-- `y = w[7:4]` (R61). -/
def yOf (w : Word) : Reg := Fin.ofNat 16 (bitField w 4 4)

/-- `n = w[3:0]` (R61). -/
def nOf (w : Word) : Nat := bitField w 0 4

/-- `kk = w[7:0]` (R61). -/
def kkOf (w : Word) : Byte := BitVec.ofNat 8 (bitField w 0 8)

/-- `nnn = w[11:0]` (R61). -/
def nnnOf (w : Word) : Addr12 := BitVec.ofNat 12 (bitField w 0 12)

/-- `b0 = w[15:8]`, the byte at the lower address (R45, R60). -/
def firstByte (w : Word) : Byte := BitVec.ofNat 8 (bitField w 8 8)

/-- `b1 = w[7:0]` (R60). -/
def secondByte (w : Word) : Byte := BitVec.ofNat 8 (bitField w 0 8)

/-- The instruction word whose first byte in memory is `b0` (R45). -/
def wordOfBytes (b0 b1 : Byte) : Word := b0 ++ b1

/-- Why bytes spell no instruction. -/
inductive Reject where
  /-- the word matches no row of the decode table (R66): not a fault, the executor runs it as a
  diagnostic and a no-op -/
  | unknownOpcode (b0 b1 : Byte)
  /-- fewer than two bytes; the fetch always gives two (R60) -/
  | truncated
deriving DecidableEq, Repr

/-- Family 0 is selected by the second byte alone (R65). -/
def decodeFamily0 (w : Word) : Option Instr :=
  match bitField w 0 8 with
  | 0xE0 => some .cls
  | 0xEE => some .ret
  | _ => none

/-- Family 8 is selected by the low nibble of the second byte (R64). -/
def decodeFamily8 (w : Word) : Option Instr :=
  match nOf w with
  | 0x0 => some (.ldReg (xOf w) (yOf w))
  | 0x1 => some (.orReg (xOf w) (yOf w))
  | 0x2 => some (.andReg (xOf w) (yOf w))
  | 0x3 => some (.xorReg (xOf w) (yOf w))
  | 0x4 => some (.addReg (xOf w) (yOf w))
  | 0x5 => some (.subReg (xOf w) (yOf w))
  | 0x6 => some (.shr (xOf w) (yOf w))
  | 0x7 => some (.subnReg (xOf w) (yOf w))
  | 0xE => some (.shl (xOf w) (yOf w))
  | _ => none

/-- Family E is selected by the second byte (R64). -/
def decodeFamilyE (w : Word) : Option Instr :=
  match bitField w 0 8 with
  | 0x9E => some (.skp (xOf w))
  | 0xA1 => some (.sknp (xOf w))
  | _ => none

/-- Family F is selected by the second byte (R64). -/
def decodeFamilyF (w : Word) : Option Instr :=
  match bitField w 0 8 with
  | 0x07 => some (.ldVxDT (xOf w))
  | 0x0A => some (.ldVxK (xOf w))
  | 0x15 => some (.ldDTVx (xOf w))
  | 0x18 => some (.ldSTVx (xOf w))
  | 0x1E => some (.addI (xOf w))
  | 0x29 => some (.ldF (xOf w))
  | 0x33 => some (.ldB (xOf w))
  | 0x55 => some (.storeRegs (xOf w))
  | 0x65 => some (.loadRegs (xOf w))
  | _ => none

/-- The instruction a word spells, by its family (R64); `none` for a word outside the table. -/
def decodeWord? (w : Word) : Option Instr :=
  match opOf w with
  | 0x0 => decodeFamily0 w
  | 0x1 => some (.jp (nnnOf w))
  | 0x2 => some (.call (nnnOf w))
  | 0x3 => some (.seImm (xOf w) (kkOf w))
  | 0x4 => some (.sneImm (xOf w) (kkOf w))
  | 0x5 => some (.seReg (xOf w) (yOf w))
  | 0x6 => some (.ldImm (xOf w) (kkOf w))
  | 0x7 => some (.addImm (xOf w) (kkOf w))
  | 0x8 => decodeFamily8 w
  | 0x9 => some (.sneReg (xOf w) (yOf w))
  | 0xA => some (.ldI (nnnOf w))
  | 0xB => some (.jpV0 (nnnOf w))
  | 0xC => some (.rnd (xOf w) (kkOf w))
  | 0xD => some (.drw (xOf w) (yOf w) (nOf w))
  | 0xE => decodeFamilyE w
  | 0xF => decodeFamilyF w
  | _ => none

/-- Decoding a word, with the reason of a rejection (R64, R66). -/
def decodeWord (w : Word) : Except Reject Instr :=
  match decodeWord? w with
  | some i => .ok i
  | none => .error (.unknownOpcode (firstByte w) (secondByte w))

/-- Decoding at the head of any byte sequence: the instruction and the bytes after it. -/
def decode : List Byte → Except Reject (Instr × List Byte)
  | b0 :: b1 :: rest =>
    match decodeWord (wordOfBytes b0 b1) with
    | .ok i => .ok (i, rest)
    | .error r => .error r
  | _ => .error .truncated

/-- The bytes of a word in memory order, high byte first (R45). -/
def bytesOfWord (w : Word) : List Byte := [firstByte w, secondByte w]

/-- The instruction the decoder reads from a word numbered as spec/opcode_table.json numbers it
(one 16-bit word, bit 0 its least significant bit). -/
def decodeTableWord (nbits w : Nat) : Option Instr :=
  if nbits ≤ 16 then
    match decode (bytesOfWord (BitVec.ofNat 16 (w % 2 ^ nbits))) with
    | .ok (i, _) => some i
    | .error _ => none
  else none

/-! ## The encoder -/

/-- Format NNN (R62). -/
def encNNN (op : Nat) (nnn : Addr12) : Word := BitVec.ofNat 16 (op * 0x1000 + nnn.toNat)

/-- Format XKK (R62). -/
def encXKK (op : Nat) (x : Reg) (kk : Byte) : Word :=
  BitVec.ofNat 16 (op * 0x1000 + x.val * 0x100 + kk.toNat)

/-- Formats XY, XYS and XYN (R62): `n` is zero, the sub-selector or the row count. -/
def encXYN (op : Nat) (x y : Reg) (n : Nat) : Word :=
  BitVec.ofNat 16 (op * 0x1000 + x.val * 0x100 + y.val * 0x10 + n)

/-- Format XS (R62): the sub-selector is the second byte. -/
def encXS (op : Nat) (x : Reg) (sub : Nat) : Word :=
  BitVec.ofNat 16 (op * 0x1000 + x.val * 0x100 + sub)

/-- The canonical word of an instruction: ignored bits are zero (R65). -/
def encode : Instr → Word
  | .cls => 0x00E0#16
  | .ret => 0x00EE#16
  | .jp nnn => encNNN 0x1 nnn
  | .call nnn => encNNN 0x2 nnn
  | .seImm x kk => encXKK 0x3 x kk
  | .sneImm x kk => encXKK 0x4 x kk
  | .seReg x y => encXYN 0x5 x y 0
  | .ldImm x kk => encXKK 0x6 x kk
  | .addImm x kk => encXKK 0x7 x kk
  | .ldReg x y => encXYN 0x8 x y 0x0
  | .orReg x y => encXYN 0x8 x y 0x1
  | .andReg x y => encXYN 0x8 x y 0x2
  | .xorReg x y => encXYN 0x8 x y 0x3
  | .addReg x y => encXYN 0x8 x y 0x4
  | .subReg x y => encXYN 0x8 x y 0x5
  | .shr x y => encXYN 0x8 x y 0x6
  | .subnReg x y => encXYN 0x8 x y 0x7
  | .shl x y => encXYN 0x8 x y 0xE
  | .sneReg x y => encXYN 0x9 x y 0
  | .ldI nnn => encNNN 0xA nnn
  | .jpV0 nnn => encNNN 0xB nnn
  | .rnd x kk => encXKK 0xC x kk
  | .drw x y n => encXYN 0xD x y n
  | .skp x => encXS 0xE x 0x9E
  | .sknp x => encXS 0xE x 0xA1
  | .ldVxDT x => encXS 0xF x 0x07
  | .ldVxK x => encXS 0xF x 0x0A
  | .ldDTVx x => encXS 0xF x 0x15
  | .ldSTVx x => encXS 0xF x 0x18
  | .addI x => encXS 0xF x 0x1E
  | .ldF x => encXS 0xF x 0x29
  | .ldB x => encXS 0xF x 0x33
  | .storeRegs x => encXS 0xF x 0x55
  | .loadRegs x => encXS 0xF x 0x65

/-! ## The decode table as data (R64) -/

/-- The match and mask of an instruction's row of the decode table: `(match, mask)` (R64). -/
def rowOf : Instr → Word × Word
  | .cls => (0x00E0#16, 0xF0FF#16)
  | .ret => (0x00EE#16, 0xF0FF#16)
  | .jp _ => (0x1000#16, 0xF000#16)
  | .call _ => (0x2000#16, 0xF000#16)
  | .seImm _ _ => (0x3000#16, 0xF000#16)
  | .sneImm _ _ => (0x4000#16, 0xF000#16)
  | .seReg _ _ => (0x5000#16, 0xF000#16)
  | .ldImm _ _ => (0x6000#16, 0xF000#16)
  | .addImm _ _ => (0x7000#16, 0xF000#16)
  | .ldReg _ _ => (0x8000#16, 0xF00F#16)
  | .orReg _ _ => (0x8001#16, 0xF00F#16)
  | .andReg _ _ => (0x8002#16, 0xF00F#16)
  | .xorReg _ _ => (0x8003#16, 0xF00F#16)
  | .addReg _ _ => (0x8004#16, 0xF00F#16)
  | .subReg _ _ => (0x8005#16, 0xF00F#16)
  | .shr _ _ => (0x8006#16, 0xF00F#16)
  | .subnReg _ _ => (0x8007#16, 0xF00F#16)
  | .shl _ _ => (0x800E#16, 0xF00F#16)
  | .sneReg _ _ => (0x9000#16, 0xF000#16)
  | .ldI _ => (0xA000#16, 0xF000#16)
  | .jpV0 _ => (0xB000#16, 0xF000#16)
  | .rnd _ _ => (0xC000#16, 0xF000#16)
  | .drw _ _ _ => (0xD000#16, 0xF000#16)
  | .skp _ => (0xE09E#16, 0xF0FF#16)
  | .sknp _ => (0xE0A1#16, 0xF0FF#16)
  | .ldVxDT _ => (0xF007#16, 0xF0FF#16)
  | .ldVxK _ => (0xF00A#16, 0xF0FF#16)
  | .ldDTVx _ => (0xF015#16, 0xF0FF#16)
  | .ldSTVx _ => (0xF018#16, 0xF0FF#16)
  | .addI _ => (0xF01E#16, 0xF0FF#16)
  | .ldF _ => (0xF029#16, 0xF0FF#16)
  | .ldB _ => (0xF033#16, 0xF0FF#16)
  | .storeRegs _ => (0xF055#16, 0xF0FF#16)
  | .loadRegs _ => (0xF065#16, 0xF0FF#16)

/-- The `(match, mask)` pairs of all 34 rows, in the table's order (R64). -/
def tableRows : List (Word × Word) :=
  [(0x00E0#16, 0xF0FF#16), (0x00EE#16, 0xF0FF#16), (0x1000#16, 0xF000#16), (0x2000#16, 0xF000#16),
   (0x3000#16, 0xF000#16), (0x4000#16, 0xF000#16), (0x5000#16, 0xF000#16), (0x6000#16, 0xF000#16),
   (0x7000#16, 0xF000#16)] ++
  [(0x8000#16, 0xF00F#16), (0x8001#16, 0xF00F#16), (0x8002#16, 0xF00F#16), (0x8003#16, 0xF00F#16),
   (0x8004#16, 0xF00F#16), (0x8005#16, 0xF00F#16), (0x8006#16, 0xF00F#16), (0x8007#16, 0xF00F#16),
   (0x800E#16, 0xF00F#16)] ++
  [(0x9000#16, 0xF000#16), (0xA000#16, 0xF000#16), (0xB000#16, 0xF000#16), (0xC000#16, 0xF000#16),
   (0xD000#16, 0xF000#16)] ++
  [(0xE09E#16, 0xF0FF#16), (0xE0A1#16, 0xF0FF#16), (0xF007#16, 0xF0FF#16), (0xF00A#16, 0xF0FF#16),
   (0xF015#16, 0xF0FF#16), (0xF018#16, 0xF0FF#16), (0xF01E#16, 0xF0FF#16), (0xF029#16, 0xF0FF#16),
   (0xF033#16, 0xF0FF#16), (0xF055#16, 0xF0FF#16), (0xF065#16, 0xF0FF#16)]

end Sys2Proof
end

