-- ==== Sys2Proof/Machine/State.lean ====
section
/-! DEFINITION. The state of the machine (10_state.md R10 to R22, R24, R25), why a step can stop, and reset (R26). -/

namespace Sys2Proof.Machine

/-- The 4096-byte memory (20_memory.md R40), as the list of its bytes that differ from what an
unlisted address reads as (`Memory.unlisted`), by rising address. -/
abbrev Memory := List Host.Cell

/-- The framebuffer (10_state.md R16): row `r`, column `c` is bit `c` of entry `r`. Every access
goes through the cell index of 45_display.md R150, in Machine/Ops.lean. Log 13. -/
abbrev Framebuffer := Vector (BitVec 64) 32

/-- One timer (10_state.md R15): the tick count and the last-decrement timestamp. -/
structure Timer where
  count : Byte
  last : Nat
deriving DecidableEq, Repr

/-- The state of the blocking key read (10_state.md R19). -/
inductive KState where
  | idle
  | waiting
deriving DecidableEq, Repr

/-- The fault causes (60_exceptions.md R171). -/
inductive FaultCode where
  /-- code 1: `2nnn` with 16 entries on the stack -/
  | stackOverflow
  /-- code 2: `00EE` with none -/
  | stackUnderflow
deriving DecidableEq, Repr

/-- The fault record `Fault(code, at)` (10_state.md R21). -/
structure FaultRecord where
  code : FaultCode
  addr : Word
deriving DecidableEq, Repr

/-- One transaction on an output port (10_state.md R25). The port `status` is a view,
`State.status`. -/
inductive Emission where
  /-- `render`: the whole framebuffer -/
  | render (fb : Framebuffer)
  /-- `audio`: no value -/
  | audio
  /-- `diag`: an unknown opcode was executed -/
  | unknownOpcode (b0 b1 : Byte)
  /-- `diag`: a key event carried a code outside 0 to 15 -/
  | keyCodeRange (code : Int)
deriving DecidableEq, Repr

/-- Everything the machine holds. -/
structure State where
  /-- the sixteen general registers (R10); `VF` is `V[15]` (R11) -/
  V : Vector Byte 16
  /-- the index register (R12) -/
  I : Word
  /-- the program counter (R13) -/
  pc : Word
  /-- the call stack, oldest entry first; `sp` is its length (R14) -/
  stack : List Word
  /-- the memory (20_memory.md R40) -/
  mem : Memory
  /-- the delay timer (R15) -/
  DT : Timer
  /-- the sound timer (R15) -/
  ST : Timer
  /-- the framebuffer (R16) -/
  fb : Framebuffer
  /-- the changed-since-last-render flag (R17) -/
  dirty : Bool
  /-- the key-down flags (R18) -/
  keys : Vector Bool 16
  /-- the state of the blocking key read (R19) -/
  kstate : KState
  /-- the one-slot key latch: `none` is `Empty` (R19) -/
  latch : Option Key
  /-- the fault record: `none` is `None` (R21) -/
  fault : Option FaultRecord
  /-- the scheduler's pause bit (R22) -/
  paused : Bool
  /-- the scheduler's stop bit (R22) -/
  stopped : Bool
  /-- input port `now`: this cycle's time sample (R24, 60_exceptions.md R180) -/
  now : Nat
  /-- input ports `now` and `events`: what the environment supplies for the coming cycles, next
  cycle first (R24). When it is empty the environment's choice is a free value. Log 1. -/
  pending : List CycleInput
  /-- input port `rand`: the bytes the coming draws take, next first (R20, R24). When it is empty
  the byte is a free value. Log 2. -/
  randPort : List Byte
  /-- the output ports' transactions, newest first (R25). Log 8. -/
  emitted : List Emission
  /-- the model's own counter of free values taken. Log 3. -/
  freeCount : Nat
deriving DecidableEq, Repr

/-- Why a step gives no next state. Only `step` raises these; no instruction does. -/
inductive Fault where
  /-- Raised by `step` when the fault record is set: no cycle begins (60_exceptions.md R172, R179).
  Safe: the machine has no further step either. Log 9. -/
  | halted (r : FaultRecord)
  /-- Raised by `step` when `stopped = 1`: no cycle begins (60_exceptions.md R183). Safe: the
  machine has no further step either. Log 9. -/
  | stopped
deriving DecidableEq, Repr

/-- Why the model gives an instruction no meaning. -/
inductive Refusal where
  /-- Raised by `exec` for an instruction without a meaning, by its mnemonic; safe. No instruction
  of this model is in this case. -/
  | notModelled (mnemonic : String)
deriving DecidableEq, Repr

/-- The machine right after reset (10_state.md R26) with an empty program, MEM_FILL zero (log 6)
and the reset sample 0 (log 7). `boot` in Machine/Load.lean is reset in general (R200). -/
def State.reset : State where
  V := Vector.replicate 16 0
  I := 0
  pc := 0x200
  stack := []
  mem := []
  DT := ⟨0, Config.resetTime⟩
  ST := ⟨0, Config.resetTime⟩
  fb := Vector.replicate 32 0
  dirty := true
  keys := Vector.replicate 16 false
  kstate := .idle
  latch := none
  fault := none
  paused := false
  stopped := false
  now := Config.resetTime
  pending := []
  randPort := []
  emitted := []
  freeCount := 0

end Sys2Proof.Machine
end

