-- ==== Sys2Proof/Machine/Ops.lean ====
section
/-! DEFINITION. The shared operations over memory, registers, stack, framebuffer, timers and ports, and fault entry. -/

namespace Sys2Proof.Machine

abbrev Result := Host.Outcome State Fault Refusal

/-! ## Memory (20_memory.md) -/

/-- The font table (20_memory.md R42): glyph `g` is bytes `5g` to `5g + 4`. Glyphs 1 to F are
PRESUMED (the spec takes them from general knowledge, D12). Log 12. -/
def fontTable : List Byte :=
  [0xF0, 0x90, 0x90, 0x90, 0xF0] ++ [0x20, 0x60, 0x20, 0x20, 0x70] ++
  [0xF0, 0x10, 0xF0, 0x80, 0xF0] ++ [0xF0, 0x10, 0xF0, 0x10, 0xF0] ++
  [0x90, 0x90, 0xF0, 0x10, 0x10] ++ [0xF0, 0x80, 0xF0, 0x10, 0xF0] ++
  [0xF0, 0x80, 0xF0, 0x90, 0xF0] ++ [0xF0, 0x10, 0x20, 0x40, 0x40] ++
  [0xF0, 0x90, 0xF0, 0x90, 0xF0] ++ [0xF0, 0x90, 0xF0, 0x10, 0xF0] ++
  [0xF0, 0x90, 0xF0, 0x90, 0x90] ++ [0xE0, 0x90, 0xE0, 0x90, 0xE0] ++
  [0xF0, 0x80, 0x80, 0x80, 0xF0] ++ [0xE0, 0x90, 0x90, 0x90, 0xE0] ++
  [0xF0, 0x80, 0xF0, 0x80, 0xF0] ++ [0xF0, 0x80, 0xF0, 0x80, 0x80]

/-- What an unlisted address reads as: its reset content without a program, the font below 80
(R41, R42) and MEM_FILL elsewhere. DESIGN CHOICE for the latter, unsafe: log 6. -/
def Memory.unlisted (a : Nat) : Byte := fontTable[a]?.getD Config.memFill

/-- The canonical form from address `lo` on: rising addresses below 4096, no entry equal to what
its address reads as unlisted. -/
def Memory.wfFrom (lo : Nat) : Memory → Bool
  | [] => true
  | (a, b) :: m =>
    decide (lo ≤ a) && decide (a < Config.memSize) && decide (b ≠ Memory.unlisted a) &&
      Memory.wfFrom (a + 1) m

/-- The canonical form of a memory. -/
def Memory.wf (m : Memory) : Bool := Memory.wfFrom 0 m

/-- The byte at a listed or unlisted address. -/
def Memory.get : Memory → Nat → Byte
  | [], a => Memory.unlisted a
  | (a', b) :: m, a => if a = a' then b else Memory.get m a

/-- The entry for byte `b` at `a`, in canonical form. -/
def Memory.entry (a : Nat) (b : Byte) : Memory := if b = Memory.unlisted a then [] else [(a, b)]

/-- Setting the byte at an address below 4096, keeping the canonical form. -/
def Memory.put : Memory → Nat → Byte → Memory
  | [], a, b => Memory.entry a b
  | (a', b') :: m, a, b =>
    if a < a' then Memory.entry a b ++ (a', b') :: m
    else if a = a' then Memory.entry a b ++ m
    else (a', b') :: Memory.put m a b

/-- `MemRead(addr, 1)` (R43): any natural address, reduced modulo 4096. -/
def Memory.read (m : Memory) (addr : Nat) : Byte := m.get (addr % Config.memSize)

/-- `MemWrite(addr, 1, v)` (R44). -/
def Memory.write (m : Memory) (addr : Nat) (v : Byte) : Memory := m.put (addr % Config.memSize) v

/-- Byte writes at `base`, `base + 1`, ... in ascending order (R48). -/
def Memory.store (m : Memory) (base : Nat) : List Byte → Memory
  | [] => m
  | b :: bs => (m.write base b).store (base + 1) bs

/-- Byte reads at `base` to `base + n − 1` in ascending order (R48). -/
def Memory.load (m : Memory) (base n : Nat) : List Byte :=
  (List.range n).map fun k => m.read (base + k)

/-- `MemRead(pc, 2)`: the instruction word at `pc` (R45, R60). -/
def State.fetchWord (s : State) : Word :=
  wordOfBytes (s.mem.read s.pc.toNat) (s.mem.read (s.pc.toNat + 1))

/-! ## Registers (10_state.md R10 to R13) -/

/-- `V[r]`. -/
def State.reg (s : State) (r : Reg) : Byte := s.V[r]

/-- `V[r] <- b`. -/
def State.setReg (s : State) (r : Reg) (b : Byte) : State := { s with V := s.V.set r.val b r.isLt }

/-- `VF <- b`, the flag register (R11). -/
def State.setFlag (s : State) (b : Byte) : State := s.setReg Config.flagReg b

/-- `I <- a`. -/
def State.setI (s : State) (a : Word) : State := { s with I := a }

/-- `pc <- t`: an instruction that replaces the next-address (30_encoding.md R67). -/
def State.jump (s : State) (t : Word) : State := { s with pc := t }

/-- `pc <- pc + 2`: the default next-address (R67), modulo 65536 (R13). -/
def State.advance (s : State) : State := { s with pc := s.pc + 2 }

/-- `pc + 4` if the condition holds, else the default (R67). -/
def State.skipIf (s : State) (c : Bool) : State := { s with pc := if c then s.pc + 4 else s.pc + 2 }

/-! ## Output ports (10_state.md R25) -/

/-- `emit`: one transaction on an output port. -/
def State.emit (s : State) (e : Emission) : State := { s with emitted := e :: s.emitted }

/-- The output port `status`, readable by the host at any time (R25). -/
def State.status (s : State) : Option FaultRecord × Bool × Bool := (s.fault, s.paused, s.stopped)

/-! ## Faults (60_exceptions.md R170 to R173) -/

/-- Fault entry (R172): the record is written with the pc of the faulting instruction; the
instruction has no other effect. There is no handler, and nothing returns (R173). -/
def State.raise (s : State) (c : FaultCode) : State := { s with fault := some ⟨c, s.pc⟩ }

/-- The code a fault is recorded under (R171). -/
def FaultCode.number : FaultCode → Nat
  | .stackOverflow => 1
  | .stackUnderflow => 2

/-! ## The call stack (40_flow_control.md R80, R81) -/

/-- `Push(v)` (R80). A stack of 16 entries is full; longer ones do not occur (R27). -/
def State.push (s : State) (v : Word) : Except FaultCode State :=
  if s.stack.length < Config.stackDepth then .ok { s with stack := s.stack ++ [v] }
  else .error .stackOverflow

/-- `Pop()` (R81): the entry pushed last, and the state without it. -/
def State.pop (s : State) : Except FaultCode (Word × State) :=
  match s.stack.getLast? with
  | some v => .ok (v, { s with stack := s.stack.dropLast })
  | none => .error .stackUnderflow

/-! ## Unknown opcodes (30_encoding.md R66) -/

/-- A diagnostic with the two raw bytes, then the default next-address; nothing else changes. -/
def execUnknown (b0 b1 : Byte) (s : State) : Result :=
  .next (s.emit (.unknownOpcode b0 b1)).advance

/-! ## Input ports (10_state.md R24) -/

/-- `draw rand` (R20, R130): the next byte on the port, free where State holds none. Log 2. -/
def State.drawRand (s : State) : Byte × State :=
  match s.randPort with
  | b :: bs => (b, { s with randPort := bs })
  | [] => (Config.freeByte s.freeCount, { s with freeCount := s.freeCount + 1 })

/-- What the environment supplies for this cycle (60_exceptions.md R179): the next input on the
ports, free where State holds none; a free sample is not earlier than the last (R180). Log 1. -/
def State.takeInput (s : State) : CycleInput × State :=
  match s.pending with
  | c :: cs => (c, { s with pending := cs })
  | [] => (⟨s.now + Config.freeElapsed s.freeCount, Config.freeEvents s.freeCount⟩,
      { s with freeCount := s.freeCount + 1 })

/-! ## Timers (44_random_timers.md R132 to R134) -/

/-- The whole intervals elapsed since the last decrement, `k` of R132; none when the clock has not
moved past `last`. -/
def Timer.ticks (interval now : Nat) (t : Timer) : Nat :=
  if t.last < now then (now - t.last) / interval else 0

/-- `Decay(t, now)` (R132). -/
def Timer.decay (interval now : Nat) (t : Timer) : Timer :=
  let k := t.ticks interval now
  if 1 ≤ k then
    { count := BitVec.ofNat 8 (t.count.toNat - min k t.count.toNat), last := t.last + k * interval }
  else t

/-- `Decay(DT, now)` at this cycle's sample. -/
def State.decayDT (s : State) : State := { s with DT := s.DT.decay Config.tickInterval s.now }

/-- The transition that raises the audio notification (R133): from a non-zero count to zero. -/
def audioDue (old new : Timer) : Bool := decide (old.count ≠ 0) && decide (new.count = 0)

/-- `Decay(ST, now)` at this cycle's sample, with the audio trigger (R133). -/
def State.decayST (s : State) : State :=
  let t := s.ST.decay Config.tickInterval s.now
  { s with ST := t, emitted := if audioDue s.ST t then .audio :: s.emitted else s.emitted }

/-! ## The framebuffer by cell index (45_display.md R150) -/

/-- The row that holds cell `idx`. -/
def fbRow (idx : Nat) : Fin 32 := Fin.ofNat 32 (idx / Config.fbWidth)

/-- The column of cell `idx`. -/
def fbCol (idx : Nat) : Nat := idx % Config.fbWidth

/-- `fb[idx]`, for `idx` below 2048. -/
def Framebuffer.cell (fb : Framebuffer) (idx : Nat) : Bool := fb[fbRow idx].getLsbD (fbCol idx)

/-- `fb[idx] <- fb[idx] ^ 1`. -/
def Framebuffer.toggle (fb : Framebuffer) (idx : Nat) : Framebuffer :=
  fb.set (fbRow idx).val (fb[fbRow idx] ^^^ BitVec.twoPow 64 (fbCol idx)) (fbRow idx).isLt

/-- Every cell off. -/
def Framebuffer.blank : Framebuffer := Vector.replicate 32 0

/-! ## The sprite engine (45_display.md R151) -/

/-- The bits of one sprite byte with the cells they land on, most significant bit first:
`idx = ((y0 + row) × 64 + (x0 + col)) mod 2048`. -/
def spriteRow (x0 y0 row : Nat) (byte : Byte) : List (Nat × Bool) :=
  (List.range 8).map fun col =>
    (((y0 + row) * Config.fbWidth + (x0 + col)) % Config.fbCells, byte.getLsbD (7 - col))

/-- The cells a sprite touches, row by row, with the sprite's bits; `rows` are its bytes. -/
def spriteCells (x0 y0 : Nat) : Nat → List Byte → List (Nat × Bool)
  | _, [] => []
  | row, b :: bs => spriteRow x0 y0 row b ++ spriteCells x0 y0 (row + 1) bs

/-- One cell of the engine's loop: collision is judged before the cell is toggled. -/
def drawCell (acc : Framebuffer × Bool) (cell : Nat × Bool) : Framebuffer × Bool :=
  if cell.2 then (acc.1.toggle cell.1, acc.2 || acc.1.cell cell.1) else acc

/-- `Sprite(x0, y0, addr, n)`: the new framebuffer and the collision bit. -/
def sprite (m : Memory) (x0 y0 : Byte) (addr : Word) (n : Nat) (fb : Framebuffer) : Framebuffer × Bool :=
  (spriteCells x0.toNat y0.toNat 0 (m.load addr.toNat n)).foldl drawCell (fb, false)

end Sys2Proof.Machine
end

