-- ==== Sys2Proof/Machine/Flags.lean ====
section
/-! DEFINITION. The flag computations: what `VF` becomes after each instruction that writes it (10_state.md section 2). -/

namespace Sys2Proof.Machine

/-- A flag as the value of `VF`: 0 or 1. -/
def flagByte (c : Bool) : Byte := if c then 1 else 0

/-- `8xy4` (42_alu.md R106): the 9-bit sum exceeds 255. -/
def carryFlag (a b : Byte) : Byte := flagByte (decide (255 < a.toNat + b.toNat))

/-- `8xy5` (R107): strictly greater, so 0 for equal operands. -/
def greaterFlag (a b : Byte) : Byte := flagByte (decide (b.toNat < a.toNat))

/-- `8xy7` (R109): `b − a` needs no borrow, so 1 for equal operands. -/
def notBorrowFlag (a b : Byte) : Byte := flagByte (decide (a.toNat ≤ b.toNat))

/-- `8xy6` (R108): bit 0 of the operand. -/
def shrFlag (v : Byte) : Byte := flagByte (v.getLsbD 0)

/-- `8xyE` (R110): bit 7 of the operand. -/
def shlFlag (v : Byte) : Byte := flagByte (v.getLsbD 7)

/-- `Dxyn` (45_display.md R153): any collision. -/
def collisionFlag (c : Bool) : Byte := flagByte c

end Sys2Proof.Machine
end

