-- ==== Sys2Proof/Machine/Operands.lean ====
section
/-! DEFINITION. The operand forms (30_encoding.md R63) and the shared shapes of register-writing instructions. -/

namespace Sys2Proof.Machine

/-- `zext_16` of the address field (R63). -/
def addrWord (nnn : Addr12) : Word := nnn.setWidth 16

/-- `zext_16` of a register (R63). -/
def byteWord (b : Byte) : Word := b.setWidth 16

/-- The operand `8xy6` and `8xyE` shift in a quirk mode (42_alu.md R108, R110). -/
def shiftOperandIn (q : ShiftQuirk) (s : State) (x y : Reg) : Byte :=
  match q with
  | .srcVx => s.reg x
  | .srcVy => s.reg y

/-- The shifted operand under this machine's SHIFT_QUIRK. -/
def shiftOperand (s : State) (x y : Reg) : Byte := shiftOperandIn Config.shiftQuirk s x y

/-- The key a register selects: its low four bits (46_keypad.md R160). -/
def keyOf (b : Byte) : Key := Fin.ofNat 16 b.toNat

/-- `keys[V[x][3:0]]` (R160). -/
def State.keyDownAt (s : State) (x : Reg) : Bool := s.keys[keyOf (s.reg x)]

/-- The base address of every data access (10_state.md R12). -/
def State.dataBase (s : State) : Nat := s.I.toNat

/-- The decimal digits of a byte, hundreds first (43_index_memory.md R123). -/
def decimalDigits (v : Byte) : List Byte :=
  [BitVec.ofNat 8 (v.toNat / 100), BitVec.ofNat 8 (v.toNat / 10 % 10), BitVec.ofNat 8 (v.toNat % 10)]

/-- `V[0]` to `V[x]`, in order (43_index_memory.md R124). -/
def State.regsUpTo (s : State) (x : Reg) : List Byte := s.V.toList.take (x.val + 1)

/-- `V[i] <- MemRead(base + i, 1)` for `i` in `0` to `x` (43_index_memory.md R125). -/
def State.loadRegsFrom (s : State) (base : Nat) (x : Reg) : State :=
  { s with V := s.V.mapFinIdx fun i old _ => if i ≤ x.val then s.mem.read (base + i) else old }

/-- `V[x] <- res`, then the default next-address (30_encoding.md R67). -/
def State.writeReg (s : State) (x : Reg) (res : Byte) : State := (s.setReg x res).advance

/-- The result to `V[x]`, then the flag to `VF`, which wins when `x = 15` (42_alu.md R111). Both are
computed by the caller from the state before. -/
def State.writeRegFlag (s : State) (x : Reg) (res flag : Byte) : State :=
  ((s.setReg x res).setFlag flag).advance

/-- Bytes stored from `I` on in ascending order (20_memory.md R48), then the default next-address. -/
def State.storeAtI (s : State) (bs : List Byte) : State :=
  { s with mem := s.mem.store s.dataBase bs }.advance

end Sys2Proof.Machine
end

