-- ==== Sys2Proof/Machine/Alu.lean ====
section
/-! DEFINITION. Immediate loads and the register-register ALU (42_alu.md). -/

namespace Sys2Proof.Machine

/-- `6xkk` (R100). -/
def execLdImm (x : Reg) (kk : Byte) (s : State) : Result := .next (s.writeReg x kk)

/-- `7xkk` (R101): no flag, also on wrap-around. -/
def execAddImm (x : Reg) (kk : Byte) (s : State) : Result := .next (s.writeReg x (s.reg x + kk))

/-- `8xy0` (R102). -/
def execLdReg (x y : Reg) (s : State) : Result := .next (s.writeReg x (s.reg y))

/-- `8xy1` (R103): no flag (R113). -/
def execOrReg (x y : Reg) (s : State) : Result := .next (s.writeReg x (s.reg x ||| s.reg y))

/-- `8xy2` (R104): no flag (R113). -/
def execAndReg (x y : Reg) (s : State) : Result := .next (s.writeReg x (s.reg x &&& s.reg y))

/-- `8xy3` (R105): no flag (R113). -/
def execXorReg (x y : Reg) (s : State) : Result := .next (s.writeReg x (s.reg x ^^^ s.reg y))

/-- `8xy4` (R106): the sum modulo 256 and the carry. -/
def execAddReg (x y : Reg) (s : State) : Result :=
  .next (s.writeRegFlag x (s.reg x + s.reg y) (carryFlag (s.reg x) (s.reg y)))

/-- `8xy5` (R107): `Vx − Vy` modulo 256; the flag is `Vx > Vy`. -/
def execSubReg (x y : Reg) (s : State) : Result :=
  .next (s.writeRegFlag x (s.reg x - s.reg y) (greaterFlag (s.reg x) (s.reg y)))

/-- `8xy6` (R108): a logical shift right by one; the flag is the bit shifted out. -/
def execShr (x y : Reg) (s : State) : Result :=
  .next (s.writeRegFlag x (shiftOperand s x y >>> 1) (shrFlag (shiftOperand s x y)))

/-- `8xy7` (R109): `Vy − Vx` modulo 256; the flag is not-borrow, `Vy ≥ Vx`. -/
def execSubnReg (x y : Reg) (s : State) : Result :=
  .next (s.writeRegFlag x (s.reg y - s.reg x) (notBorrowFlag (s.reg x) (s.reg y)))

/-- `8xyE` (R110): a shift left by one; the flag is the bit shifted out. -/
def execShl (x y : Reg) (s : State) : Result :=
  .next (s.writeRegFlag x (shiftOperand s x y <<< 1) (shlFlag (shiftOperand s x y)))

end Sys2Proof.Machine
end

