-- ==== Sys2Proof/Machine/Control.lean ====
section
/-! DEFINITION. Control transfer: JP, CALL, RET, JP V0 (40_flow_control.md). -/

namespace Sys2Proof.Machine

/-- `1nnn` (R82). -/
def execJp (nnn : Addr12) (s : State) : Result := .next (s.jump (addrWord nnn))

/-- `2nnn` (R83): the address of this CALL is pushed; `StackOverflow` on a full stack. -/
def execCall (nnn : Addr12) (s : State) : Result :=
  match s.push s.pc with
  | .ok t => .next (t.jump (addrWord nnn))
  | .error c => .next (s.raise c)

/-- `00EE` (R84): the popped address plus 2; `StackUnderflow` on an empty stack. -/
def execRet (s : State) : Result :=
  match s.pop with
  | .ok (a, t) => .next (t.jump (a + 2))
  | .error c => .next (s.raise c)

/-- `Bnnn` (R85). -/
def execJpV0 (nnn : Addr12) (s : State) : Result :=
  .next (s.jump (addrWord nnn + byteWord (s.reg 0)))

end Sys2Proof.Machine
end

