-- ==== Sys2Proof/Machine/Display.lean ====
section
/-! DEFINITION. CLS and DRW (45_display.md). -/

namespace Sys2Proof.Machine

/-- `00E0` (R152): every cell off; `dirty` is set also when the framebuffer was blank. -/
def execCls (s : State) : Result := .next { s with fb := Framebuffer.blank, dirty := true }.advance

/-- The sprite engine run with `Dxyn`'s operands, read before `VF` is written (R153). -/
def State.drawn (s : State) (x y : Reg) (n : Nat) : Framebuffer × Bool :=
  sprite s.mem (s.reg x) (s.reg y) s.I n s.fb

/-- `Dxyn` (R153): the sprite, the collision bit to `VF`, `dirty` set also for zero rows. -/
def execDrw (x y : Reg) (n : Nat) (s : State) : Result :=
  .next ({ s with fb := (s.drawn x y n).1, dirty := true }.setFlag
    (collisionFlag (s.drawn x y n).2)).advance

end Sys2Proof.Machine
end

