-- ==== Sys2Proof/Machine/IndexMemory.lean ====
section
/-! DEFINITION. The index register and the memory instructions (43_index_memory.md). -/

namespace Sys2Proof.Machine

/-- `Annn` (R120). -/
def execLdI (nnn : Addr12) (s : State) : Result := .next (s.setI (addrWord nnn)).advance

/-- `Fx1E` (R121): modulo 65536, no flag. -/
def execAddI (x : Reg) (s : State) : Result := .next (s.setI (s.I + byteWord (s.reg x))).advance

/-- `Fx29` (R122): five times the whole register, not masked to a nibble. -/
def execLdF (x : Reg) (s : State) : Result :=
  .next (s.setI (BitVec.ofNat 16 (Config.glyphBytes * (s.reg x).toNat))).advance

/-- `Fx33` (R123): the decimal digits to `I`, `I + 1`, `I + 2`. -/
def execLdB (x : Reg) (s : State) : Result := .next (s.storeAtI (decimalDigits (s.reg x)))

/-- `Fx55` (R124): `V[0]` to `V[x]` from `I` on; `I` is not changed. -/
def execStoreRegs (x : Reg) (s : State) : Result := .next (s.storeAtI (s.regsUpTo x))

/-- `Fx65` (R125): `V[0]` to `V[x]` from `I` on; `I` is not changed. -/
def execLoadRegs (x : Reg) (s : State) : Result := .next (s.loadRegsFrom s.dataBase x).advance

end Sys2Proof.Machine
end

