-- ==== Sys2Proof/Machine/Keypad.lean ====
section
/-! DEFINITION. The key skips and the blocking key read (46_keypad.md). -/

namespace Sys2Proof.Machine

/-- `Ex9E` (R161). -/
def execSkp (x : Reg) (s : State) : Result := .next (s.skipIf (s.keyDownAt x))

/-- `ExA1` (R162). -/
def execSknp (x : Reg) (s : State) : Result := .next (s.skipIf (!s.keyDownAt x))

/-- The value a key code loads: `zext_8(k)` (R163). -/
def keyByte (k : Key) : Byte := BitVec.ofNat 8 k.val

/-- `Fx0A` (R163): the first execution starts the wait and holds the pc; a waiting one holds the pc
until the latch holds a key, then takes it. -/
def execLdVxK (x : Reg) (s : State) : Result :=
  match s.kstate with
  | .idle => .next { s with kstate := .waiting }
  | .waiting =>
    match s.latch with
    | some k => .next ({ s with latch := none, kstate := .idle }.writeReg x (keyByte k))
    | none => .next s

end Sys2Proof.Machine
end

