-- ==== Sys2Proof/Machine/RandomTimers.lean ====
section
/-! DEFINITION. The random and the timer instructions (44_random_timers.md). -/

namespace Sys2Proof.Machine

/-- `Cxkk` (R130): one byte is drawn, whatever the mask. -/
def execRnd (x : Reg) (kk : Byte) (s : State) : Result :=
  .next (s.drawRand.2.writeReg x (s.drawRand.1 &&& kk))

/-- `Fx07` (R135): the delay timer after decay up to this cycle's sample. -/
def execLdVxDT (x : Reg) (s : State) : Result := .next (s.decayDT.writeReg x s.decayDT.DT.count)

/-- `Fx15` (R136): the count is loaded and the timestamp is this cycle's sample. -/
def execLdDTVx (x : Reg) (s : State) : Result := .next { s with DT := ⟨s.reg x, s.now⟩ }.advance

/-- `Fx18` (R137): as `Fx15`; no audio notification at the load (R133). -/
def execLdSTVx (x : Reg) (s : State) : Result := .next { s with ST := ⟨s.reg x, s.now⟩ }.advance

end Sys2Proof.Machine
end

