-- ==== Sys2Proof/Machine/Scheduler.lean ====
section
/-! DEFINITION. The parts of the scheduler cycle around the executor (60_exceptions.md R179 to R185; 46_keypad.md R164 to R166). -/

namespace Sys2Proof.Machine

/-- The key a code names, if it is in 0 to 15 (46_keypad.md R166). -/
def keyOfCode (c : Int) : Option Key :=
  if h : 0 ≤ c ∧ c < 16 then some ⟨c.toNat, by omega⟩ else none

/-- `keys[k] <- b`. -/
def State.setKey (s : State) (k : Key) (b : Bool) : State :=
  { s with keys := s.keys.set k.val b k.isLt }

/-- `keyDown(k)` (R164): the flag, and the latch while a wait is pending; the last press wins. -/
def State.pressKey (s : State) (k : Key) : State :=
  { s.setKey k true with latch := if s.kstate = .waiting then some k else s.latch }

/-- Applying one event (R181; R164 to R166). -/
def State.applyEvent (s : State) : Event → State
  | .keyDown c =>
    match keyOfCode c with
    | some k => s.pressKey k
    | none => s.emit (.keyCodeRange c)
  | .keyUp c =>
    match keyOfCode c with
    | some k => s.setKey k false
    | none => s.emit (.keyCodeRange c)
  | .pause => { s with paused := true }
  | .resume => { s with paused := false }
  | .stop => { s with stopped := true }

/-- The events of a poll, in the order delivered (R181). -/
def State.applyEvents (s : State) (es : List Event) : State := es.foldl State.applyEvent s

/-- Steps 1 and 2 of a cycle (R179): the time sample, then the events. -/
def State.poll (s : State) : State :=
  { s.takeInput.2 with now := s.takeInput.1.now }.applyEvents s.takeInput.1.events

/-- Step 3 of a cycle (R179, R134): both timers decay, also in paused cycles. -/
def State.decayTimers (s : State) : State := s.decayDT.decayST

/-- Steps 1 to 3: everything before the executor. -/
def State.beforeExec (s : State) : State := s.poll.decayTimers

/-- Step 5 of a cycle (R179, R184): a changed framebuffer is sent and `dirty` cleared. -/
def State.render (s : State) : State :=
  { s with dirty := false, emitted := if s.dirty then .render s.fb :: s.emitted else s.emitted }

end Sys2Proof.Machine
end

