-- ==== Sys2Proof/Machine/Cycle.lean ====
section
/-! DEFINITION. One executor invocation (30_encoding.md R67) and one scheduler cycle (60_exceptions.md R179). -/

namespace Sys2Proof.Machine

/-- One executor invocation (R67): fetch, decode, execute; a word outside the table is a diagnostic
and a no-op (R66). The fetch gives two bytes, so the decoder rejects for no other reason. -/
def invoke (s : State) : Host.Outcome State Fault Refusal :=
  match decodeWord? s.fetchWord with
  | some i => exec i s
  | none => execUnknown (firstByte s.fetchWord) (secondByte s.fetchWord) s

/-- The end of a cycle after its executor invocation, if one was made: step 5 of R179, also after a
fault entry. -/
def finishCycle : Host.Outcome State Fault Refusal → Host.Outcome State Fault Refusal
  | .next t => .next t.render
  | .fault f => .fault f
  | .refused r => .refused r

/-- Step 4 of R179: the executor, unless paused (60_exceptions.md R182, R185). -/
def runUnlessPaused (s : State) : Host.Outcome State Fault Refusal :=
  if s.paused then .next s else invoke s

/-- One scheduler cycle (R179). A cycle begins only if `stopped = 0` and `fault = None`. -/
def runCycle (s : State) : Host.Outcome State Fault Refusal :=
  match s.fault with
  | some r => .fault (.halted r)
  | none => if s.stopped then .fault .stopped else finishCycle (runUnlessPaused s.beforeExec)

end Sys2Proof.Machine
end

