-- ==== Sys2Proof/Machine/Load.lean ====
section
/-! DEFINITION. Reset and program load in general (70_reset_and_hazards.md R200, R201). -/

namespace Sys2Proof.Machine

/-- Why no machine is constructed (60_exceptions.md R170). -/
inductive LoadError where
  /-- the program is longer than 3584 bytes (R201) -/
  | programTooLarge
deriving DecidableEq, Repr

/-- Memory right after reset (R200, in its order): MEM_FILL everywhere, then the font, then the
program at 0x200. -/
def bootMemory (fill : Nat → Byte) (program : List Byte) : Memory :=
  let filled := Memory.store [] 0 ((List.range Config.memSize).map fill)
  (filled.store 0 fontTable).store Config.loadOffset program

/-- Reset with a MEM_FILL, a program and a first time sample (R200); refused when the program is
too large (R201). The values are those of R26. -/
def boot (fill : Nat → Byte) (program : List Byte) (now0 : Nat) : Except LoadError State :=
  if program.length ≤ Config.maxProgram then
    .ok { State.reset with
      mem := bootMemory fill program
      DT := ⟨0, now0⟩
      ST := ⟨0, now0⟩
      now := now0 }
  else .error .programTooLarge

end Sys2Proof.Machine
end

