-- ==== Sys2Proof/Machine/Step.lean ====
section
/-! DEFINITION. The step: one scheduler cycle (60_exceptions.md R179), and how a word is placed to run next. -/

namespace Sys2Proof.Machine

/-- One step is one scheduler cycle (R179). -/
def step (s : State) : Host.Outcome State Fault Refusal := runCycle s

/-- `s` with an instruction stored where the next cycle fetches, and with all that the next cycle
needs to run it: no fault, not stopped, not paused, and a cycle input with no event and no time
passed. It stands for the `load` port (70_reset_and_hazards.md R201). Log 11. -/
def State.withFetchWord (s : State) (nbits w : Nat) : State :=
  { s with
    mem := s.mem.store s.pc.toNat (bytesOfWord (BitVec.ofNat 16 (w % 2 ^ nbits)))
    fault := none
    paused := false
    stopped := false
    pending := ⟨s.now, []⟩ :: s.pending }

end Sys2Proof.Machine
end

