-- ==== Sys2Proof/Safety.lean ====
section
/-! DEFINITION. The terms claims are stated in: invariants, frames, and the relations the spec's prose speaks of. -/

namespace Sys2Proof.Machine

/-! ## Invariants (10_state.md R27; 46_keypad.md R163) -/

/-- What every reachable state keeps (R27); the widths hold by the types. The first part is the
model's: memory is in its canonical form. -/
structure State.Inv (s : State) : Prop where
  mem : s.mem.wf = true
  stack : s.stack.length ≤ 16
  latch : ∀ k, s.latch = some k → s.kstate = .waiting

/-- While a key read waits, the word at the pc is a key read (46_keypad.md R163 corner case (e)). -/
def State.WaitsAtKeyRead (s : State) : Prop :=
  s.kstate = .waiting → ∃ x, decodeWord? s.fetchWord = some (.ldVxK x)

/-! ## Frames -/

/-- Every general register outside the list is unchanged. -/
def RegsExcept (written : List Reg) (s t : State) : Prop :=
  ∀ r, r ∉ written → t.reg r = s.reg r

/-- Every byte of memory is unchanged. -/
def BytesKept (s t : State) : Prop := ∀ a : Nat, t.mem.read a = s.mem.read a

/-- Every byte of memory outside the `n` bytes from `base` on is unchanged; addresses are taken
modulo 4096 (20_memory.md R43). -/
def BytesExcept (base n : Nat) (s t : State) : Prop :=
  ∀ a : Nat, (∀ k < n, a % 4096 ≠ (base + k) % 4096) → t.mem.read a = s.mem.read a

/-- Nothing but the listed general registers and the pc differs. -/
structure OnlyRegs (written : List Reg) (s t : State) : Prop where
  regs : RegsExcept written s t
  bytes : BytesKept s t
  rest : t = { s with V := t.V, pc := t.pc }

/-! ## Encoding -/

/-- The number `w` is the canonical word of `i`: `i` is encoded as it, and it decodes to `i`. -/
def Spells (w : Nat) (i : Instr) : Prop :=
  encode i = BitVec.ofNat 16 w ∧ decodeWord? (BitVec.ofNat 16 w) = some i

/-- The bits of a word the decoder takes into account for the instruction it spells: all but the
ignored nibble of `00E0`, `00EE`, `5xy0`, `9xy0` (30_encoding.md R65). -/
def usedBits : Instr → Word
  | .cls | .ret => 0xF0FF#16
  | .seReg _ _ | .sneReg _ _ => 0xFFF0#16
  | _ => 0xFFFF#16

end Sys2Proof.Machine

namespace Sys2Proof

/-! ## Who writes what (10_state.md section 12; 30_encoding.md R67) -/

/-- The general registers an instruction may write. -/
def Instr.writes : Instr → List Reg
  | .ldImm x _ | .addImm x _ | .ldReg x _ | .orReg x _ | .andReg x _ | .xorReg x _ => [x]
  | .addReg x _ | .subReg x _ | .shr x _ | .subnReg x _ | .shl x _ => [x, 15]
  | .rnd x _ | .ldVxDT x | .ldVxK x => [x]
  | .drw _ _ _ => [15]
  | .loadRegs x => (List.finRange 16).filter (· ≤ x)
  | _ => []

/-- The instructions that may replace the default next-address (30_encoding.md R67). -/
def Instr.replacesNext : Instr → Bool
  | .ret | .jp _ | .call _ | .jpV0 _ => true
  | .seImm _ _ | .sneImm _ _ | .seReg _ _ | .sneReg _ _ | .skp _ | .sknp _ => true
  | .ldVxK _ => true
  | _ => false

end Sys2Proof

namespace Sys2Proof.Machine

/-! ## The sprite engine, as the rule states it (45_display.md R151) -/

/-- The sprite at `addr` with origin `(x0, y0)` and `n` rows has a 1 bit that lands on cell `idx`. -/
def SpriteLights (m : Memory) (x0 y0 : Byte) (addr : Word) (n idx : Nat) : Prop :=
  ∃ row < n, ∃ col < 8, idx = ((y0.toNat + row) * 64 + (x0.toNat + col)) % 2048 ∧
    (m.read (addr.toNat + row)).getLsbD (7 - col) = true

/-! ## The shift quirk (42_alu.md R108, R110) -/

/-- The register a shift reads: `x` under SRC_VX, `y` under SRC_VY. -/
def shiftSource : ShiftQuirk → Reg → Reg → Reg
  | .srcVx, x, _ => x
  | .srcVy, _, y => y

/-! ## Isolation (60_exceptions.md R177) -/

/-- Two states that differ in the sound timer and the output record alone. -/
def SameButSound (s t : State) : Prop := t = { s with ST := t.ST, emitted := t.emitted }

end Sys2Proof.Machine
end

