-- ==== Sys2Proof/Certificates/Slice0/Obligations.lean ====
section
/-! DEFINITION. The statements for the provers. -/

open Sys2Proof Sys2Proof.Machine

/-! ## Encoding (30_encoding.md) -/

/-- Decoding the bytes of an encoded well-formed instruction gives it back, and leaves the bytes
after it (R45, R64). -/
def Obligations.DecodeOfEncodeIsTheInstruction : Prop :=
  ∀ (i : Instr) (rest : List Byte), i.wellFormed = true →
    decode (bytesOfWord (encode i) ++ rest) = .ok (i, rest)

/-- Encoding what a word decodes to gives the word with its ignored nibble cleared, and nothing else
lost; what decodes is well formed. That a nibble is ignored, and zero in the canonical word, is the
spec's decision D8 (R65; log 14). -/
def Obligations.EncodeOfDecodeClearsOnlyIgnoredBits : Prop :=
  ∀ (w : Word) (i : Instr), decodeWord? w = some i →
    i.wellFormed = true ∧ encode i = w &&& usedBits i

/-- R64: a word spells the instruction of the one row it matches; rows are disjoint; a word that
matches none is unknown, and the decoder rejects it by its two bytes. -/
def Obligations.DecodingFollowsTheTable : Prop :=
  tableRows.length = 34 ∧
  tableRows.Pairwise (fun r q => ∀ w : Word, ¬ (w &&& r.2 = r.1 ∧ w &&& q.2 = q.1)) ∧
  (∀ (w : Word) (i : Instr), decodeWord? w = some i →
    rowOf i ∈ tableRows ∧ w &&& (rowOf i).2 = (rowOf i).1) ∧
  (∀ (w : Word), ∀ r ∈ tableRows, w &&& r.2 = r.1 → ∃ i, decodeWord? w = some i ∧ rowOf i = r) ∧
  (∀ (w : Word), (∀ r ∈ tableRows, w &&& r.2 ≠ r.1) → ∃ b0 b1 : Byte,
    decodeWord w = .error (.unknownOpcode b0 b1) ∧ w = wordOfBytes b0 b1)

/-- R65: the nibble `w[11:8]` of `00E0` and `00EE`, and the nibble `w[3:0]` of `5xy0` and `9xy0`,
are ignored, and zero in the canonical words. -/
def Obligations.IgnoredNibblesDoNotMatter : Prop :=
  ∀ (m : Nat) (x y : Reg), m < 16 →
    Spells 0x00E0 .cls ∧ Spells 0x00EE .ret ∧
    Spells (0x5000 + 0x100 * x.val + 0x10 * y.val) (.seReg x y) ∧
    Spells (0x9000 + 0x100 * x.val + 0x10 * y.val) (.sneReg x y) ∧
    decodeWord? (BitVec.ofNat 16 (0x00E0 + 0x100 * m)) = some .cls ∧
    decodeWord? (BitVec.ofNat 16 (0x00EE + 0x100 * m)) = some .ret ∧
    decodeWord? (BitVec.ofNat 16 (0x5000 + 0x100 * x.val + 0x10 * y.val + m)) = some (.seReg x y) ∧
    decodeWord? (BitVec.ofNat 16 (0x9000 + 0x100 * x.val + 0x10 * y.val + m)) = some (.sneReg x y)

/-- One word of each of the sixteen opcode families, so at least one of each of the seven formats of
R62, written out from R61 and R64; `0AEE`, whose nibble `A` is ignored (D8, log 14); and `0000`,
which is unknown. -/
def Obligations.SampleWordsDecode : Prop :=
  decode [0x00, 0xEE] = .ok (.ret, []) ∧
  decode [0x12, 0x08] = .ok (.jp 0x208, []) ∧
  decode [0x2A, 0xBC] = .ok (.call 0xABC, []) ∧
  decode [0x33, 0x2A] = .ok (.seImm 3 0x2A, []) ∧
  decode [0x4B, 0x80] = .ok (.sneImm 11 0x80, []) ∧
  decode [0x51, 0x20] = .ok (.seReg 1 2, []) ∧
  decode [0x60, 0x05] = .ok (.ldImm 0 0x05, []) ∧
  decode [0x72, 0x20] = .ok (.addImm 2 0x20, []) ∧
  decode [0x80, 0x14] = .ok (.addReg 0 1, []) ∧
  decode [0x9E, 0xF0] = .ok (.sneReg 14 15, []) ∧
  decode [0xA2, 0xF0] = .ok (.ldI 0x2F0, []) ∧
  decode [0xB2, 0x10] = .ok (.jpV0 0x210, []) ∧
  decode [0xC3, 0x0F] = .ok (.rnd 3 0x0F, []) ∧
  decode [0xD1, 0x25] = .ok (.drw 1 2 5, []) ∧
  decode [0xE1, 0x9E] = .ok (.skp 1, []) ∧
  decode [0xF3, 0x0A] = .ok (.ldVxK 3, []) ∧
  decode [0x0A, 0xEE] = .ok (.ret, []) ∧
  decode [0x00, 0x00] = .error (.unknownOpcode 0 0)

/-- R66: a word that matches no row is a diagnostic with its two bytes and a no-op that advances
the pc by 2. -/
def Obligations.UnknownOpcodeIsALoggedNoOp : Prop :=
  ∀ s : State, (∀ r ∈ tableRows, s.fetchWord &&& r.2 ≠ r.1) →
    invoke s = .next { s with
      pc := s.pc + 2
      emitted :=
        .unknownOpcode (s.mem.read s.pc.toNat) (s.mem.read (s.pc.toNat + 1)) :: s.emitted }

/-! ## The step (60_exceptions.md R179) -/

/-- R67, R179: when a cycle begins unpaused and the bytes at the pc spell `i`, the step is `exec i` at the state
after the poll and the decay, and then the render notification. Poll and decay leave the pc and
memory, so the bytes are those `exec` runs at. -/
def Obligations.StepRunsTheDecodedInstruction : Prop :=
  ∀ (s : State) (i : Instr), s.fault = none → s.stopped = false → s.beforeExec.paused = false →
    decodeWord? (wordOfBytes (s.mem.read s.pc.toNat) (s.mem.read (s.pc.toNat + 1))) = some i →
    s.beforeExec.pc = s.pc ∧ s.beforeExec.mem = s.mem ∧
    (∀ t, exec i s.beforeExec = .next t → step s = .next t.render) ∧
    (∀ f, exec i s.beforeExec = .fault f → step s = .fault f) ∧
    (∀ r, exec i s.beforeExec = .refused r → step s = .refused r)

/-- A step answers a next state exactly when `fault = None` and `stopped = 0`, and never refuses;
otherwise it stops under a name (log 9). -/
def Obligations.StepAnswersExactlyWhenACycleBegins : Prop :=
  ∀ s : State,
    ((∃ t, step s = .next t) ↔ (s.fault = none ∧ s.stopped = false)) ∧
    (∀ r, s.fault = some r → step s = .fault (.halted r)) ∧
    (s.fault = none → s.stopped = true → step s = .fault .stopped)

/-- What the poll and the decay leave alone, before the executor runs. Where State holds no input for
the cycle (log 1), the sample still is not earlier than the last one (R180). -/
def Obligations.PollAndDecayKeepTheProgramState : Prop :=
  ∀ s : State,
    (∀ r, s.beforeExec.reg r = s.reg r) ∧ s.beforeExec.I = s.I ∧ s.beforeExec.pc = s.pc ∧
    s.beforeExec.stack = s.stack ∧ (∀ a, s.beforeExec.mem.read a = s.mem.read a) ∧
    s.beforeExec.fb = s.fb ∧ s.beforeExec.dirty = s.dirty ∧ s.beforeExec.kstate = s.kstate ∧
    s.beforeExec.fault = s.fault ∧ s.beforeExec.randPort = s.randPort ∧
    s.beforeExec.DT = s.DT.decay Config.tickInterval s.beforeExec.now ∧
    s.beforeExec.ST = s.ST.decay Config.tickInterval s.beforeExec.now ∧
    (∀ c cs, s.pending = c :: cs → s.beforeExec.now = c.now ∧ s.beforeExec.pending = cs) ∧
    (s.pending = [] → s.now ≤ s.beforeExec.now ∧ s.beforeExec.pending = [])

/-- R182: a paused cycle leaves the executor's state alone while the poll, the decay of both timers
with the audio trigger, and the render notification go on. Only `resume` wakes it. -/
def Obligations.PauseFreezesTheExecutorAlone : Prop :=
  (∀ s : State, s.fault = none → s.stopped = false → s.beforeExec.paused = true →
    ∃ t, step s = .next t ∧
      (∀ r, t.reg r = s.reg r) ∧ t.I = s.I ∧ t.pc = s.pc ∧ t.stack = s.stack ∧ t.mem = s.mem ∧
      t.fb = s.fb ∧ t.kstate = s.kstate ∧
      t.keys = s.poll.keys ∧ t.latch = s.poll.latch ∧ t.paused = true ∧ t.stopped = s.poll.stopped ∧
      t.DT = s.DT.decay Config.tickInterval s.poll.now ∧
      t.ST = s.ST.decay Config.tickInterval s.poll.now ∧
      t.dirty = false ∧
      t.emitted =
        (if s.dirty then [.render s.fb] else []) ++
        (if audioDue s.ST (s.ST.decay Config.tickInterval s.poll.now) then [.audio] else []) ++
        s.poll.emitted) ∧
  (∀ s : State, s.paused = true → s.applyEvent .pause = s) ∧
  (∀ s : State, s.paused = false → s.applyEvent .resume = s) ∧
  (∀ s : State, s.applyEvent .resume = { s with paused := false }) ∧
  (∀ (s : State) (e : Event), s.paused = true → (s.applyEvent e).paused = false → e = .resume)

/-- R184: after the executor's part, a changed framebuffer is emitted once, as it is then, and
`dirty` is cleared; nothing else changes. So `dirty` is clear after every step, and a cycle that
begins with it set, as the first one does, notifies. -/
def Obligations.RenderNotifiesOnceAndClearsDirty : Prop :=
  (∀ s u : State, s.fault = none → s.stopped = false → runUnlessPaused s.beforeExec = .next u →
    ∃ t, step s = .next t ∧
      t = { u with dirty := false, emitted := t.emitted } ∧
      (u.dirty = true → t.emitted = .render u.fb :: u.emitted) ∧
      (u.dirty = false → t.emitted = u.emitted)) ∧
  (∀ s t : State, step s = .next t → t.dirty = false) ∧
  (∀ s t : State, s.dirty = true → step s = .next t → ∃ e, t.emitted = .render t.fb :: e) ∧
  State.reset.dirty = true

/-! ## Input events (46_keypad.md, 60_exceptions.md R181) -/

/-- R164: the key's flag is set, and the latch takes the key while a key read waits. -/
def Obligations.KeyDownSetsTheFlagAndFeedsTheWait : Prop :=
  ∀ (s : State) (k : Key), ∃ t, s.applyEvent (.keyDown (k.val : Int)) = t ∧
    t = { s with keys := t.keys, latch := t.latch } ∧
    t.keys[k] = true ∧ (∀ j : Key, j ≠ k → t.keys[j] = s.keys[j]) ∧
    (s.kstate = .waiting → t.latch = some k) ∧ (s.kstate = .idle → t.latch = s.latch)

/-- R165: the key's flag is cleared; the latch and the wait are not touched. -/
def Obligations.KeyUpClearsTheFlagAlone : Prop :=
  ∀ (s : State) (k : Key), ∃ t, s.applyEvent (.keyUp (k.val : Int)) = t ∧
    t = { s with keys := t.keys } ∧
    t.keys[k] = false ∧ (∀ j : Key, j ≠ k → t.keys[j] = s.keys[j])

/-- R166: a code outside 0 to 15 is a diagnostic and no state change. -/
def Obligations.OutOfRangeKeyCodeIsLoggedAndIgnored : Prop :=
  ∀ (s : State) (c : Int), (c < 0 ∨ 15 < c) →
    s.applyEvent (.keyDown c) = { s with emitted := .keyCodeRange c :: s.emitted } ∧
    s.applyEvent (.keyUp c) = { s with emitted := .keyCodeRange c :: s.emitted }

/-- The scheduler's events set and clear their bits; a list of events is applied one by one, in the
order delivered; the poll applies the list of the cycle's input to the state with the new sample
(R179 step 2, R181; the input's form is log 1); a press followed by a release during a wait leaves
the key up and the latch full (R181). -/
def Obligations.EventsApplyInOrder : Prop :=
  (∀ s : State, s.applyEvent .pause = { s with paused := true } ∧
    s.applyEvent .resume = { s with paused := false } ∧
    s.applyEvent .stop = { s with stopped := true }) ∧
  (∀ s : State, s.applyEvents [] = s) ∧
  (∀ (s : State) (e : Event) (es : List Event),
    s.applyEvents (e :: es) = (s.applyEvent e).applyEvents es) ∧
  (∀ (s : State) (es fs : List Event),
    s.applyEvents (es ++ fs) = (s.applyEvents es).applyEvents fs) ∧
  (∀ (s : State) (c : CycleInput) (cs : List CycleInput), s.pending = c :: cs →
    s.poll = ({ s with pending := cs, now := c.now }).applyEvents c.events) ∧
  (∀ (s : State) (k : Key), s.kstate = .waiting →
    (s.applyEvents [.keyDown (k.val : Int), .keyUp (k.val : Int)]).keys[k] = false ∧
    (s.applyEvents [.keyDown (k.val : Int), .keyUp (k.val : Int)]).latch = some k)

/-! ## Faults (60_exceptions.md R171, R172) -/

/-- Only CALL on a full stack and RET on an empty one raise a fault; the record holds the code and
the instruction's pc, and nothing else changes. A CALL on more than 16 entries, which no run reaches
(R27), faults as on 16: the model's choice, log 10. -/
def Obligations.OnlyCallAndRetRaiseAndChangeNothingElse : Prop :=
  (∀ (i : Instr) (s t : State), s.fault = none → exec i s = .next t → t.fault ≠ none →
    (∃ nnn, i = .call nnn ∧ 16 ≤ s.stack.length ∧ t.fault = some ⟨.stackOverflow, s.pc⟩ ∧
      t = { s with fault := t.fault }) ∨
    (i = .ret ∧ s.stack = [] ∧ t.fault = some ⟨.stackUnderflow, s.pc⟩ ∧
      t = { s with fault := t.fault })) ∧
  (∀ (nnn : Addr12) (s : State), 16 < s.stack.length →
    exec (.call nnn) s = .next { s with fault := some ⟨.stackOverflow, s.pc⟩ }) ∧
  FaultCode.number .stackOverflow = 1 ∧ FaultCode.number .stackUnderflow = 2

/-- A fault entered by a step is the last thing that happens: the step after it stops. -/
def Obligations.AFaultedMachineTakesNoFurtherStep : Prop :=
  ∀ (s t : State) (r : FaultRecord), step s = .next t → t.fault = some r →
    t.pc = s.pc ∧ r.addr = s.pc ∧ t.stack = s.stack ∧ (∀ q, t.reg q = s.reg q) ∧
    (∀ a, t.mem.read a = s.mem.read a) ∧ step t = .fault (.halted r)

/-! ## Control transfer (40_flow_control.md) -/

/-- R82: `pc <- nnn`. -/
def Obligations.JumpGoesToItsAddress : Prop :=
  ∀ (nnn : Addr12) (s : State), Spells (0x1000 + nnn.toNat) (.jp nnn) ∧
    ∃ t, exec (.jp nnn) s = .next t ∧ t.pc.toNat = nnn.toNat ∧ OnlyRegs [] s t

/-- R85: `pc <- nnn + V0`. -/
def Obligations.JumpV0AddsTheRegister : Prop :=
  ∀ (nnn : Addr12) (s : State), Spells (0xB000 + nnn.toNat) (.jpV0 nnn) ∧
    ∃ t, exec (.jpV0 nnn) s = .next t ∧ t.pc.toNat = (nnn.toNat + (s.reg 0).toNat) % 65536 ∧
      OnlyRegs [] s t

/-- R83: with room, CALL pushes its own address and jumps; on a full stack it raises
`StackOverflow` and does nothing else. -/
def Obligations.CallPushesItsOwnAddress : Prop :=
  ∀ (nnn : Addr12) (s : State), Spells (0x2000 + nnn.toNat) (.call nnn) ∧
    (s.stack.length < 16 → ∃ t, exec (.call nnn) s = .next t ∧ t.stack = s.stack ++ [s.pc] ∧
      t.pc.toNat = nnn.toNat ∧ RegsExcept [] s t ∧ BytesKept s t ∧
      t = { s with stack := t.stack, pc := t.pc }) ∧
    (s.stack.length = 16 →
      exec (.call nnn) s = .next { s with fault := some ⟨.stackOverflow, s.pc⟩ })

/-- R84: with an entry, RET pops it and goes to it plus 2; on an empty stack it raises
`StackUnderflow` and does nothing else. A CALL and its RET come to the address after the CALL. -/
def Obligations.ReturnPopsAndAddsTwo : Prop :=
  ∀ s : State, Spells 0x00EE .ret ∧
    (∀ m < 16, decodeWord? (BitVec.ofNat 16 (0x00EE + 0x100 * m)) = some .ret) ∧
    (∀ (below : List Word) (a : Word), s.stack = below ++ [a] →
      ∃ t, exec .ret s = .next t ∧ t.stack = below ∧ t.pc.toNat = (a.toNat + 2) % 65536 ∧
        RegsExcept [] s t ∧ BytesKept s t ∧ t = { s with stack := t.stack, pc := t.pc }) ∧
    (s.stack = [] → exec .ret s = .next { s with fault := some ⟨.stackUnderflow, s.pc⟩ }) ∧
    (∀ nnn : Addr12, s.stack.length < 16 → ∃ t v, exec (.call nnn) s = .next t ∧
      exec .ret t = .next v ∧ v.pc = s.pc + 2)

/-- CALL followed by RET, whatever ran between as long as the stack is as the CALL left it, goes to
the address after the CALL and restores the stack. -/
def Obligations.CallThenReturnIsSymmetric : Prop :=
  ∀ (nnn : Addr12) (s : State), s.stack.length < 16 →
    ∃ t, exec (.call nnn) s = .next t ∧
      ∀ u : State, u.stack = t.stack → ∃ v, exec .ret u = .next v ∧ v.pc = s.pc + 2 ∧
        v.stack = s.stack

/-! ## Skips (41_skips.md) -/

/-- R90, R91. -/
def Obligations.SkipOnImmediate : Prop :=
  ∀ (x : Reg) (kk : Byte) (s : State),
    Spells (0x3000 + 0x100 * x.val + kk.toNat) (.seImm x kk) ∧
    Spells (0x4000 + 0x100 * x.val + kk.toNat) (.sneImm x kk) ∧
    (∃ t, exec (.seImm x kk) s = .next t ∧ OnlyRegs [] s t ∧
      (s.reg x = kk → t.pc.toNat = (s.pc.toNat + 4) % 65536) ∧
      (s.reg x ≠ kk → t.pc.toNat = (s.pc.toNat + 2) % 65536)) ∧
    (∃ t, exec (.sneImm x kk) s = .next t ∧ OnlyRegs [] s t ∧
      (s.reg x ≠ kk → t.pc.toNat = (s.pc.toNat + 4) % 65536) ∧
      (s.reg x = kk → t.pc.toNat = (s.pc.toNat + 2) % 65536))

/-- R92, R93. -/
def Obligations.SkipOnRegisters : Prop :=
  ∀ (x y : Reg) (s : State),
    Spells (0x5000 + 0x100 * x.val + 0x10 * y.val) (.seReg x y) ∧
    Spells (0x9000 + 0x100 * x.val + 0x10 * y.val) (.sneReg x y) ∧
    (∀ m < 16, decodeWord? (BitVec.ofNat 16 (0x5000 + 0x100 * x.val + 0x10 * y.val + m)) =
        some (.seReg x y) ∧
      decodeWord? (BitVec.ofNat 16 (0x9000 + 0x100 * x.val + 0x10 * y.val + m)) =
        some (.sneReg x y)) ∧
    (∃ t, exec (.seReg x y) s = .next t ∧ OnlyRegs [] s t ∧
      (s.reg x = s.reg y → t.pc.toNat = (s.pc.toNat + 4) % 65536) ∧
      (s.reg x ≠ s.reg y → t.pc.toNat = (s.pc.toNat + 2) % 65536)) ∧
    (∃ t, exec (.sneReg x y) s = .next t ∧ OnlyRegs [] s t ∧
      (s.reg x ≠ s.reg y → t.pc.toNat = (s.pc.toNat + 4) % 65536) ∧
      (s.reg x = s.reg y → t.pc.toNat = (s.pc.toNat + 2) % 65536))

/-- R160 to R162: the key is the low four bits of the register. -/
def Obligations.SkipOnKey : Prop :=
  ∀ (x : Reg) (s : State) (k : Key), (s.reg x).toNat % 16 = k.val →
    Spells (0xE09E + 0x100 * x.val) (.skp x) ∧
    Spells (0xE0A1 + 0x100 * x.val) (.sknp x) ∧
    (∃ t, exec (.skp x) s = .next t ∧ OnlyRegs [] s t ∧
      (s.keys[k] = true → t.pc.toNat = (s.pc.toNat + 4) % 65536) ∧
      (s.keys[k] = false → t.pc.toNat = (s.pc.toNat + 2) % 65536)) ∧
    (∃ t, exec (.sknp x) s = .next t ∧ OnlyRegs [] s t ∧
      (s.keys[k] = false → t.pc.toNat = (s.pc.toNat + 4) % 65536) ∧
      (s.keys[k] = true → t.pc.toNat = (s.pc.toNat + 2) % 65536))

/-! ## Immediate and register ALU (42_alu.md) -/

/-- R100, R101. -/
def Obligations.ImmediateLoadAndAdd : Prop :=
  ∀ (x : Reg) (kk : Byte) (s : State),
    Spells (0x6000 + 0x100 * x.val + kk.toNat) (.ldImm x kk) ∧
    Spells (0x7000 + 0x100 * x.val + kk.toNat) (.addImm x kk) ∧
    (∃ t, exec (.ldImm x kk) s = .next t ∧ OnlyRegs [x] s t ∧ t.pc = s.pc + 2 ∧ t.reg x = kk) ∧
    (∃ t, exec (.addImm x kk) s = .next t ∧ OnlyRegs [x] s t ∧ t.pc = s.pc + 2 ∧
      (t.reg x).toNat = ((s.reg x).toNat + kk.toNat) % 256)

/-- R102 to R105: bit by bit, and no flag. -/
def Obligations.CopyAndLogic : Prop :=
  ∀ (x y : Reg) (s : State),
    Spells (0x8000 + 0x100 * x.val + 0x10 * y.val) (.ldReg x y) ∧
    Spells (0x8001 + 0x100 * x.val + 0x10 * y.val) (.orReg x y) ∧
    Spells (0x8002 + 0x100 * x.val + 0x10 * y.val) (.andReg x y) ∧
    Spells (0x8003 + 0x100 * x.val + 0x10 * y.val) (.xorReg x y) ∧
    (∃ t, exec (.ldReg x y) s = .next t ∧ OnlyRegs [x] s t ∧ t.pc = s.pc + 2 ∧
      t.reg x = s.reg y) ∧
    (∃ t, exec (.orReg x y) s = .next t ∧ OnlyRegs [x] s t ∧ t.pc = s.pc + 2 ∧
      ∀ j, (t.reg x).getLsbD j = ((s.reg x).getLsbD j || (s.reg y).getLsbD j)) ∧
    (∃ t, exec (.andReg x y) s = .next t ∧ OnlyRegs [x] s t ∧ t.pc = s.pc + 2 ∧
      ∀ j, (t.reg x).getLsbD j = ((s.reg x).getLsbD j && (s.reg y).getLsbD j)) ∧
    (∃ t, exec (.xorReg x y) s = .next t ∧ OnlyRegs [x] s t ∧ t.pc = s.pc + 2 ∧
      ∀ j, (t.reg x).getLsbD j = ((s.reg x).getLsbD j != (s.reg y).getLsbD j))

/-- R106: sum modulo 256, `VF` the carry, written last. -/
def Obligations.AddSetsCarry : Prop :=
  ∀ (x y : Reg) (s : State), Spells (0x8004 + 0x100 * x.val + 0x10 * y.val) (.addReg x y) ∧
    ∃ t, exec (.addReg x y) s = .next t ∧ OnlyRegs [x, 15] s t ∧ t.pc = s.pc + 2 ∧
      (x ≠ 15 → (t.reg x).toNat = ((s.reg x).toNat + (s.reg y).toNat) % 256) ∧
      (255 < (s.reg x).toNat + (s.reg y).toNat → t.reg 15 = 1) ∧
      ((s.reg x).toNat + (s.reg y).toNat ≤ 255 → t.reg 15 = 0)

/-- R107: difference modulo 256, `VF` = 1 iff strictly greater, written last. -/
def Obligations.SubSetsGreater : Prop :=
  ∀ (x y : Reg) (s : State), Spells (0x8005 + 0x100 * x.val + 0x10 * y.val) (.subReg x y) ∧
    ∃ t, exec (.subReg x y) s = .next t ∧ OnlyRegs [x, 15] s t ∧ t.pc = s.pc + 2 ∧
      (x ≠ 15 → ((t.reg x).toNat : Int) = ((s.reg x).toNat - (s.reg y).toNat : Int) % 256) ∧
      ((s.reg y).toNat < (s.reg x).toNat → t.reg 15 = 1) ∧
      ((s.reg x).toNat ≤ (s.reg y).toNat → t.reg 15 = 0)

/-- R109: reverse difference modulo 256, `VF` = 1 iff no borrow, written last. -/
def Obligations.SubnSetsNotBorrow : Prop :=
  ∀ (x y : Reg) (s : State), Spells (0x8007 + 0x100 * x.val + 0x10 * y.val) (.subnReg x y) ∧
    ∃ t, exec (.subnReg x y) s = .next t ∧ OnlyRegs [x, 15] s t ∧ t.pc = s.pc + 2 ∧
      (x ≠ 15 → ((t.reg x).toNat : Int) = ((s.reg y).toNat - (s.reg x).toNat : Int) % 256) ∧
      ((s.reg x).toNat ≤ (s.reg y).toNat → t.reg 15 = 1) ∧
      ((s.reg y).toNat < (s.reg x).toNat → t.reg 15 = 0)

/-- R108: a logical shift right of the register the quirk selects, whichever that is, `VF` the bit
shifted out, written last. -/
def Obligations.ShiftRightUnderBothQuirks : Prop :=
  ∀ (x y : Reg) (s : State), Spells (0x8006 + 0x100 * x.val + 0x10 * y.val) (.shr x y) ∧
    ∃ t, exec (.shr x y) s = .next t ∧ OnlyRegs [x, 15] s t ∧ t.pc = s.pc + 2 ∧
      (x ≠ 15 → (t.reg x).toNat = (s.reg (shiftSource Config.shiftQuirk x y)).toNat / 2) ∧
      (t.reg 15).toNat = (s.reg (shiftSource Config.shiftQuirk x y)).toNat % 2

/-- R110: a shift left of the register the quirk selects, whichever that is, `VF` the bit shifted
out, written last. -/
def Obligations.ShiftLeftUnderBothQuirks : Prop :=
  ∀ (x y : Reg) (s : State), Spells (0x800E + 0x100 * x.val + 0x10 * y.val) (.shl x y) ∧
    ∃ t, exec (.shl x y) s = .next t ∧ OnlyRegs [x, 15] s t ∧ t.pc = s.pc + 2 ∧
      (x ≠ 15 → (t.reg x).toNat = 2 * (s.reg (shiftSource Config.shiftQuirk x y)).toNat % 256) ∧
      (t.reg 15).toNat = (s.reg (shiftSource Config.shiftQuirk x y)).toNat / 128

/-! ## Index register and memory (43_index_memory.md) -/

/-- R120, R121, R122. -/
def Obligations.IndexRegisterWrites : Prop :=
  ∀ (x : Reg) (nnn : Addr12) (s : State),
    Spells (0xA000 + nnn.toNat) (.ldI nnn) ∧
    Spells (0xF01E + 0x100 * x.val) (.addI x) ∧
    Spells (0xF029 + 0x100 * x.val) (.ldF x) ∧
    (∃ t, exec (.ldI nnn) s = .next t ∧ t.I.toNat = nnn.toNat ∧ t.pc = s.pc + 2 ∧
      RegsExcept [] s t ∧ BytesKept s t ∧ t = { s with I := t.I, pc := t.pc }) ∧
    (∃ t, exec (.addI x) s = .next t ∧ t.I.toNat = (s.I.toNat + (s.reg x).toNat) % 65536 ∧
      t.pc = s.pc + 2 ∧
      RegsExcept [] s t ∧ BytesKept s t ∧ t = { s with I := t.I, pc := t.pc }) ∧
    (∃ t, exec (.ldF x) s = .next t ∧ t.I.toNat = 5 * (s.reg x).toNat ∧ t.pc = s.pc + 2 ∧
      RegsExcept [] s t ∧ BytesKept s t ∧ t = { s with I := t.I, pc := t.pc })

/-- R123: the decimal digits, hundreds first, at `I`, `I + 1`, `I + 2`. -/
def Obligations.DecimalDigitsAreStoredAtI : Prop :=
  ∀ (x : Reg) (s : State), s.mem.wf = true → Spells (0xF033 + 0x100 * x.val) (.ldB x) ∧
    ∃ t, exec (.ldB x) s = .next t ∧ t.pc = s.pc + 2 ∧
      (t.mem.read s.dataBase).toNat = (s.reg x).toNat / 100 ∧
      (t.mem.read (s.dataBase + 1)).toNat = (s.reg x).toNat / 10 % 10 ∧
      (t.mem.read (s.dataBase + 2)).toNat = (s.reg x).toNat % 10 ∧
      s.dataBase = s.I.toNat ∧ RegsExcept [] s t ∧ BytesExcept s.dataBase 3 s t ∧
      t = { s with mem := t.mem, pc := t.pc }

/-- R124: `V[0]` to `V[x]` at `I` on; `I` is not changed. -/
def Obligations.RegistersAreStoredAtI : Prop :=
  ∀ (x : Reg) (s : State), s.mem.wf = true → Spells (0xF055 + 0x100 * x.val) (.storeRegs x) ∧
    ∃ t, exec (.storeRegs x) s = .next t ∧ t.pc = s.pc + 2 ∧
      (∀ r : Reg, r ≤ x → t.mem.read (s.dataBase + r.val) = s.reg r) ∧
      s.dataBase = s.I.toNat ∧ RegsExcept [] s t ∧ BytesExcept s.dataBase (x.val + 1) s t ∧
      t = { s with mem := t.mem, pc := t.pc }

/-- R125: `V[0]` to `V[x]` from `I` on; `I` is not changed. -/
def Obligations.RegistersAreLoadedFromI : Prop :=
  ∀ (x : Reg) (s : State), Spells (0xF065 + 0x100 * x.val) (.loadRegs x) ∧
    ∃ t, exec (.loadRegs x) s = .next t ∧ t.pc = s.pc + 2 ∧
      (∀ r : Reg, r ≤ x → t.reg r = s.mem.read (s.I.toNat + r.val)) ∧
      (∀ r : Reg, x < r → t.reg r = s.reg r) ∧ BytesKept s t ∧
      t = { s with V := t.V, pc := t.pc }

/-- A load undoes a store: with the memory and `I` a store left, a load of as many registers gives
the stored values back, whatever the registers hold meanwhile. -/
def Obligations.LoadIsTheInverseOfStore : Prop :=
  ∀ (x : Reg) (s : State), s.mem.wf = true →
    ∃ t, exec (.storeRegs x) s = .next t ∧
      ∀ u : State, u.mem = t.mem → u.I = t.I →
        ∃ v, exec (.loadRegs x) u = .next v ∧ ∀ r : Reg, r ≤ x → v.reg r = s.reg r

/-- R52: a store over the bytes of the next instruction is what the next fetch reads. -/
def Obligations.StoresAreSeenByTheNextFetch : Prop :=
  ∀ (x : Reg) (s : State), s.mem.wf = true → 1 ≤ x.val → s.I.toNat = s.pc.toNat + 2 →
    ∃ t, exec (.storeRegs x) s = .next t ∧ t.fetchWord = wordOfBytes (s.reg 0) (s.reg 1)

/-! ## Random and timers (44_random_timers.md) -/

/-- R130: the drawn byte masked; the byte is the port's next one, and any byte where State holds none
(log 2), so the claim names none there. One byte is taken whatever the mask, and none by any other
instruction. What becomes of `freeCount`, the model's own field (log 3), is
`EmptyRandomPortGivesAFreeByte`. -/
def Obligations.RandomByteIsMasked : Prop :=
  (∀ (i : Instr) (s t : State), exec i s = .next t →
    t.randPort ≠ s.randPort → ∃ x kk, i = .rnd x kk) ∧
  ∀ (x : Reg) (kk : Byte) (s : State), Spells (0xC000 + 0x100 * x.val + kk.toNat) (.rnd x kk) ∧
    ∃ (t : State) (r : Byte), exec (.rnd x kk) s = .next t ∧ t.pc = s.pc + 2 ∧
      t.reg x = r &&& kk ∧
      (∀ b bs, s.randPort = b :: bs → r = b ∧ t.randPort = bs) ∧
      (s.randPort = [] → t.randPort = []) ∧
      RegsExcept [x] s t ∧ BytesKept s t ∧
      t = { s with V := t.V, pc := t.pc, randPort := t.randPort, freeCount := t.freeCount }

/-- R132: whole intervals are taken off the count, clamped at zero, and added to the timestamp; with
none elapsed, or a clock that went back, nothing changes. A second decay at the same sample changes
nothing. -/
def Obligations.DecayTakesOffWholeIntervals : Prop :=
  0 < Config.tickInterval ∧
  ∀ (t : Timer) (now k : Nat),
    k = (if t.last ≤ now then (now - t.last) / Config.tickInterval else 0) →
    (k = 0 → t.decay Config.tickInterval now = t) ∧
    (1 ≤ k →
      (t.decay Config.tickInterval now).count.toNat =
        t.count.toNat - min k t.count.toNat ∧
      (t.decay Config.tickInterval now).last = t.last + k * Config.tickInterval) ∧
    (t.decay Config.tickInterval now).decay Config.tickInterval now =
      t.decay Config.tickInterval now

/-- Sampling more often does not change a timer's rate: after any earlier samples, decay at `now`
gives what it gives at once, and the count is the loaded one less the whole intervals elapsed. -/
def Obligations.TimerRateIsIndependentOfSampling : Prop :=
  ∀ (t : Timer) (samples : List Nat) (now : Nat), (∀ m ∈ samples, m ≤ now) →
    (samples.foldl (fun u m => u.decay Config.tickInterval m) t).decay Config.tickInterval now =
      t.decay Config.tickInterval now ∧
    (t.last ≤ now → (t.decay Config.tickInterval now).count.toNat =
      t.count.toNat - (now - t.last) / Config.tickInterval)

/-- R133: the audio notification is emitted exactly when a decay takes the sound timer from non-zero
to zero; no instruction emits it, nor does the delay timer's decay. -/
def Obligations.AudioMarksTheSoundTimerRunningOut : Prop :=
  (∀ s : State,
    (s.ST.count ≠ 0 → s.decayST.ST.count = 0 → s.decayST.emitted = .audio :: s.emitted) ∧
    (s.ST.count = 0 → s.decayST.emitted = s.emitted) ∧
    (s.decayST.ST.count ≠ 0 → s.decayST.emitted = s.emitted) ∧
    s.decayST.ST = s.ST.decay Config.tickInterval s.now ∧
    s.decayDT.emitted = s.emitted) ∧
  (∀ (i : Instr) (s t : State), exec i s = .next t → t.emitted = s.emitted)

/-- R135: the delay count after decay up to this cycle's sample. -/
def Obligations.DelayTimerRead : Prop :=
  ∀ (x : Reg) (s : State), Spells (0xF007 + 0x100 * x.val) (.ldVxDT x) ∧
    ∃ t, exec (.ldVxDT x) s = .next t ∧ t.pc = s.pc + 2 ∧
      t.DT = s.DT.decay Config.tickInterval s.now ∧ t.reg x = t.DT.count ∧
      RegsExcept [x] s t ∧ BytesKept s t ∧
      t = { s with V := t.V, DT := t.DT, pc := t.pc }

/-- R136, R137: the count is loaded and the timestamp becomes this cycle's sample. -/
def Obligations.TimerLoads : Prop :=
  ∀ (x : Reg) (s : State),
    Spells (0xF015 + 0x100 * x.val) (.ldDTVx x) ∧
    Spells (0xF018 + 0x100 * x.val) (.ldSTVx x) ∧
    (∃ t, exec (.ldDTVx x) s = .next t ∧ t.pc = s.pc + 2 ∧
      t.DT.count = s.reg x ∧ t.DT.last = s.now ∧
      RegsExcept [] s t ∧ BytesKept s t ∧ t = { s with DT := t.DT, pc := t.pc }) ∧
    (∃ t, exec (.ldSTVx x) s = .next t ∧ t.pc = s.pc + 2 ∧
      t.ST.count = s.reg x ∧ t.ST.last = s.now ∧
      RegsExcept [] s t ∧ BytesKept s t ∧ t = { s with ST := t.ST, pc := t.pc })

/-! ## Display (45_display.md) -/

/-- R152: every cell off, `dirty` set, `VF` not changed. -/
def Obligations.ClearTurnsEveryCellOff : Prop :=
  ∀ s : State, Spells 0x00E0 .cls ∧
    (∀ m < 16, decodeWord? (BitVec.ofNat 16 (0x00E0 + 0x100 * m)) = some .cls) ∧
    ∃ t, exec .cls s = .next t ∧ t.pc = s.pc + 2 ∧ (∀ idx < 2048, t.fb.cell idx = false) ∧
      t.dirty = true ∧ RegsExcept [] s t ∧ BytesKept s t ∧
      t = { s with fb := t.fb, dirty := t.dirty, pc := t.pc }

/-- R151, R153: a cell is toggled exactly when a lit sprite bit lands on it, at
`((y + row) × 64 + (x + col)) mod 2048`; `VF` is 1 iff one landed on a lit cell; `dirty` is set. -/
def Obligations.DrawXorsTheSpriteAndReportsCollision : Prop :=
  ∀ (x y : Reg) (n : Nat) (s : State), n < 16 →
    Spells (0xD000 + 0x100 * x.val + 0x10 * y.val + n) (.drw x y n) ∧
    ∃ t, exec (.drw x y n) s = .next t ∧ t.pc = s.pc + 2 ∧ t.dirty = true ∧
      (∀ idx < 2048, SpriteLights s.mem (s.reg x) (s.reg y) s.I n idx →
        t.fb.cell idx = !s.fb.cell idx) ∧
      (∀ idx < 2048, ¬ SpriteLights s.mem (s.reg x) (s.reg y) s.I n idx →
        t.fb.cell idx = s.fb.cell idx) ∧
      ((∃ idx < 2048, SpriteLights s.mem (s.reg x) (s.reg y) s.I n idx ∧ s.fb.cell idx = true) →
        t.reg 15 = 1) ∧
      ((∀ idx < 2048, SpriteLights s.mem (s.reg x) (s.reg y) s.I n idx → s.fb.cell idx = false) →
        t.reg 15 = 0) ∧
      RegsExcept [15] s t ∧ BytesKept s t ∧
      t = { s with V := t.V, fb := t.fb, dirty := t.dirty, pc := t.pc }

/-- Drawing the same sprite twice restores the framebuffer; on a blank one the first draw reports no
collision and the second reports one iff the sprite has a lit bit. The coordinates must not be
`VF`, which the first draw writes. -/
def Obligations.DrawingTwiceRestoresTheFramebuffer : Prop :=
  ∀ (x y : Reg) (n : Nat) (s : State), n < 16 → x ≠ 15 → y ≠ 15 →
    ∃ t u, exec (.drw x y n) s = .next t ∧ exec (.drw x y n) t = .next u ∧ u.fb = s.fb ∧
      ((∀ idx < 2048, s.fb.cell idx = false) →
        t.reg 15 = 0 ∧
        (u.reg 15 = 1 ↔ ∃ row < n, s.mem.read (s.I.toNat + row) ≠ 0) ∧
        (u.reg 15 = 0 ↔ ∀ row < n, s.mem.read (s.I.toNat + row) = 0))

/-! ## The blocking key read (46_keypad.md R163) -/

/-- R163: idle, the wait starts and the pc is held; waiting with an empty latch, the pc is held;
waiting with a key, the key is loaded, the latch emptied and the wait ended. -/
def Obligations.KeyReadStateMachine : Prop :=
  ∀ (x : Reg) (s : State), Spells (0xF00A + 0x100 * x.val) (.ldVxK x) ∧
    (s.kstate = .idle → exec (.ldVxK x) s = .next { s with kstate := .waiting }) ∧
    (s.kstate = .waiting → s.latch = none → exec (.ldVxK x) s = .next s) ∧
    (∀ k : Key, s.kstate = .waiting → s.latch = some k →
      ∃ t, exec (.ldVxK x) s = .next t ∧ (t.reg x).toNat = k.val ∧ t.latch = none ∧
        t.kstate = .idle ∧ t.pc = s.pc + 2 ∧ RegsExcept [x] s t ∧ BytesKept s t ∧
        t = { s with V := t.V, latch := t.latch, kstate := t.kstate, pc := t.pc })

/-- While a key read waits, the executor runs that key read and nothing else: the property that the
word at the pc is a key read is kept by every step. A step of a wait leaves memory alone, and as
long as the wait goes on, the pc, the word at it and the key read's `x` stay the same, and no
register changes (R163 corner case (e)). -/
def Obligations.EveryStepKeepsTheWaitAtItsKeyRead : Prop :=
  ∀ s t : State, s.WaitsAtKeyRead → step s = .next t →
    t.WaitsAtKeyRead ∧
    (s.kstate = .waiting → t.mem = s.mem) ∧
    (s.kstate = .waiting → t.kstate = .waiting →
      t.pc = s.pc ∧ t.fetchWord = s.fetchWord ∧ (∀ r, t.reg r = s.reg r) ∧
      ∀ x, decodeWord? s.fetchWord = some (.ldVxK x) → decodeWord? t.fetchWord = some (.ldVxK x))

/-! ## The machine as a whole -/

/-- The invariant of R27 (and the model's canonical memory) holds at reset. -/
def Obligations.ResetMeetsTheInvariant : Prop :=
  State.reset.Inv ∧ State.reset.WaitsAtKeyRead

/-- Every step keeps the invariant of R27 (and the model's canonical memory). -/
def Obligations.EveryStepKeepsTheInvariant : Prop :=
  ∀ s t : State, s.Inv → step s = .next t → t.Inv

/-- Section 12 of 10_state.md: which instructions write which part of the state. -/
def Obligations.InstructionsWriteOnlyWhatTheTableLists : Prop :=
  ∀ (i : Instr) (s t : State), exec i s = .next t →
    (∀ r, r ∉ i.writes → t.reg r = s.reg r) ∧
    (t.I ≠ s.I → (∃ nnn, i = .ldI nnn) ∨ (∃ x, i = .addI x) ∨ (∃ x, i = .ldF x)) ∧
    (t.stack ≠ s.stack → (∃ nnn, i = .call nnn) ∨ i = .ret) ∧
    ((∃ a, t.mem.read a ≠ s.mem.read a) → (∃ x, i = .ldB x) ∨ (∃ x, i = .storeRegs x)) ∧
    (t.fb ≠ s.fb ∨ t.dirty ≠ s.dirty → i = .cls ∨ ∃ x y n, i = .drw x y n) ∧
    (t.kstate ≠ s.kstate ∨ t.latch ≠ s.latch → ∃ x, i = .ldVxK x) ∧
    (t.DT ≠ s.DT → (∃ x, i = .ldDTVx x) ∨ ∃ x, i = .ldVxDT x) ∧
    (t.ST ≠ s.ST → ∃ x, i = .ldSTVx x) ∧
    (t.randPort ≠ s.randPort ∨ t.freeCount ≠ s.freeCount → ∃ x kk, i = .rnd x kk) ∧
    t.keys = s.keys ∧ t.paused = s.paused ∧ t.stopped = s.stopped ∧ t.now = s.now ∧
    t.pending = s.pending

/-- R67: an instruction that does not replace the next-address goes to `pc + 2`; of those that may,
a skip goes to `pc + 2` or `pc + 4`, and the key read to `pc + 2` or stays. -/
def Obligations.DefaultNextAddressIsPcPlusTwo : Prop :=
  ∀ (i : Instr) (s t : State), exec i s = .next t →
    (i.replacesNext = false → t.pc = s.pc + 2) ∧
    ((∃ x kk, i = .seImm x kk ∨ i = .sneImm x kk) → t.pc = s.pc + 2 ∨ t.pc = s.pc + 4) ∧
    ((∃ x y, i = .seReg x y ∨ i = .sneReg x y) → t.pc = s.pc + 2 ∨ t.pc = s.pc + 4) ∧
    ((∃ x, i = .skp x ∨ i = .sknp x) → t.pc = s.pc + 2 ∨ t.pc = s.pc + 4) ∧
    ((∃ x, i = .ldVxK x) → t.pc = s.pc + 2 ∨ t.pc = s.pc)

/-- A program cannot observe the sound timer (R177): states that differ in it and in the output
record alone step to states that differ in them alone. -/
def Obligations.TheSoundTimerCannotBeObserved : Prop :=
  ∀ s t s' : State, SameButSound s t → step s = .next s' →
    ∃ t', step t = .next t' ∧ SameButSound s' t'

/-- Memory in canonical form is determined by what it reads as. The form is the model's. -/
def Obligations.CanonicalMemoriesWithEqualBytesAreEqual : Prop :=
  ∀ m m' : Memory, m.wf = true → m'.wf = true → (∀ a < 4096, m.read a = m'.read a) → m = m'

/-! ## Reset (10_state.md R26; 70_reset_and_hazards.md R200, R201) -/

/-- R26: the state after a successful reset, for every MEM_FILL, program and first sample. The font
bytes are those of R42, written out; glyph 0's are the source's, the others are general knowledge
(D12, log 12). -/
def Obligations.ResetGivesTheResetTable : Prop :=
  ∀ (fill : Nat → Byte) (program : List Byte) (now0 : Nat), program.length ≤ 3584 →
    ∃ s, boot fill program now0 = .ok s ∧
      (∀ r, s.reg r = 0) ∧ s.I = 0 ∧ s.pc = 0x200 ∧ s.stack = [] ∧
      (∀ a, (h : a < fontTable.length) → s.mem.read a = fontTable[a]) ∧ fontTable.length = 80 ∧
      s.mem.load 0x00 5 = [0xF0, 0x90, 0x90, 0x90, 0xF0] ∧
      s.mem.load 0x05 5 = [0x20, 0x60, 0x20, 0x20, 0x70] ∧
      s.mem.load 0x0A 5 = [0xF0, 0x10, 0xF0, 0x80, 0xF0] ∧
      s.mem.load 0x0F 5 = [0xF0, 0x10, 0xF0, 0x10, 0xF0] ∧
      s.mem.load 0x14 5 = [0x90, 0x90, 0xF0, 0x10, 0x10] ∧
      s.mem.load 0x19 5 = [0xF0, 0x80, 0xF0, 0x10, 0xF0] ∧
      s.mem.load 0x1E 5 = [0xF0, 0x80, 0xF0, 0x90, 0xF0] ∧
      s.mem.load 0x23 5 = [0xF0, 0x10, 0x20, 0x40, 0x40] ∧
      s.mem.load 0x28 5 = [0xF0, 0x90, 0xF0, 0x90, 0xF0] ∧
      s.mem.load 0x2D 5 = [0xF0, 0x90, 0xF0, 0x10, 0xF0] ∧
      s.mem.load 0x32 5 = [0xF0, 0x90, 0xF0, 0x90, 0x90] ∧
      s.mem.load 0x37 5 = [0xE0, 0x90, 0xE0, 0x90, 0xE0] ∧
      s.mem.load 0x3C 5 = [0xF0, 0x80, 0x80, 0x80, 0xF0] ∧
      s.mem.load 0x41 5 = [0xE0, 0x90, 0x90, 0x90, 0xE0] ∧
      s.mem.load 0x46 5 = [0xF0, 0x80, 0xF0, 0x80, 0xF0] ∧
      s.mem.load 0x4B 5 = [0xF0, 0x80, 0xF0, 0x80, 0x80] ∧
      (∀ k, (h : k < program.length) → s.mem.read (0x200 + k) = program[k]) ∧
      (∀ a, 80 ≤ a → a < 0x200 → s.mem.read a = fill a) ∧
      (∀ a, 0x200 + program.length ≤ a → a < 4096 → s.mem.read a = fill a) ∧
      s.mem.wf = true ∧
      s.DT = ⟨0, now0⟩ ∧ s.ST = ⟨0, now0⟩ ∧ s.now = now0 ∧
      (∀ idx < 2048, s.fb.cell idx = false) ∧ s.dirty = true ∧ (∀ k : Key, s.keys[k] = false) ∧
      s.kstate = .idle ∧ s.latch = none ∧ s.fault = none ∧ s.paused = false ∧ s.stopped = false

/-- The load contract: a program of up to 3584 bytes is accepted, a longer one is refused and no
machine is made. -/
def Obligations.LoadAcceptsExactlyProgramsThatFit : Prop :=
  ∀ (fill : Nat → Byte) (program : List Byte) (now0 : Nat),
    (program.length ≤ 3584 → ∃ s, boot fill program now0 = .ok s) ∧
    (3584 < program.length → boot fill program now0 = .error .programTooLarge)

/-- The model's `State.reset` is reset with no program, MEM_FILL zero (log 6) and first sample 0
(log 7). -/
def Obligations.ResetIsBootWithoutAProgram : Prop :=
  boot (fun _ => 0) [] 0 = .ok State.reset

/-! ## The model's own free values (logs 2, 3) -/

/-- The model's choice where State holds no random byte (log 2): the byte is the free value of the
draw's number, which holds whatever that number is, and the counter of draws (log 3) goes up by
one. A byte on the port leaves the counter alone, and so does every other instruction. -/
def Obligations.EmptyRandomPortGivesAFreeByte : Prop :=
  (∀ (x : Reg) (kk : Byte) (s : State), ∃ t, exec (.rnd x kk) s = .next t ∧
    (∀ b bs, s.randPort = b :: bs → t.freeCount = s.freeCount) ∧
    (s.randPort = [] → t.reg x = Config.freeByte s.freeCount &&& kk ∧
      t.freeCount = s.freeCount + 1)) ∧
  (∀ (i : Instr) (s t : State), exec i s = .next t → t.freeCount ≠ s.freeCount →
    s.randPort = [] ∧ ∃ x kk, i = .rnd x kk)
end

