-- ==== Sys2Proof/Laws/State.lean ====
section
/-! SUPPORT. What each update of State leaves in each field: one lemma per field per update, by rfl. -/

namespace Sys2Proof.Machine

variable (s : State)


/-! ### `setReg`: `V[r] <- b` -/

@[simp] theorem State.setReg_V (r : Reg) (b : Byte) : (s.setReg r b).V = s.V.set r.val b r.isLt := rfl
@[simp] theorem State.setReg_I (r : Reg) (b : Byte) : (s.setReg r b).I = s.I := rfl
@[simp] theorem State.setReg_pc (r : Reg) (b : Byte) : (s.setReg r b).pc = s.pc := rfl
@[simp] theorem State.setReg_stack (r : Reg) (b : Byte) : (s.setReg r b).stack = s.stack := rfl
@[simp] theorem State.setReg_mem (r : Reg) (b : Byte) : (s.setReg r b).mem = s.mem := rfl
@[simp] theorem State.setReg_DT (r : Reg) (b : Byte) : (s.setReg r b).DT = s.DT := rfl
@[simp] theorem State.setReg_ST (r : Reg) (b : Byte) : (s.setReg r b).ST = s.ST := rfl
@[simp] theorem State.setReg_fb (r : Reg) (b : Byte) : (s.setReg r b).fb = s.fb := rfl
@[simp] theorem State.setReg_dirty (r : Reg) (b : Byte) : (s.setReg r b).dirty = s.dirty := rfl
@[simp] theorem State.setReg_keys (r : Reg) (b : Byte) : (s.setReg r b).keys = s.keys := rfl
@[simp] theorem State.setReg_kstate (r : Reg) (b : Byte) : (s.setReg r b).kstate = s.kstate := rfl
@[simp] theorem State.setReg_latch (r : Reg) (b : Byte) : (s.setReg r b).latch = s.latch := rfl
@[simp] theorem State.setReg_fault (r : Reg) (b : Byte) : (s.setReg r b).fault = s.fault := rfl
@[simp] theorem State.setReg_paused (r : Reg) (b : Byte) : (s.setReg r b).paused = s.paused := rfl
@[simp] theorem State.setReg_stopped (r : Reg) (b : Byte) : (s.setReg r b).stopped = s.stopped := rfl
@[simp] theorem State.setReg_now (r : Reg) (b : Byte) : (s.setReg r b).now = s.now := rfl
@[simp] theorem State.setReg_pending (r : Reg) (b : Byte) : (s.setReg r b).pending = s.pending := rfl
@[simp] theorem State.setReg_randPort (r : Reg) (b : Byte) : (s.setReg r b).randPort = s.randPort := rfl
@[simp] theorem State.setReg_emitted (r : Reg) (b : Byte) : (s.setReg r b).emitted = s.emitted := rfl
@[simp] theorem State.setReg_freeCount (r : Reg) (b : Byte) : (s.setReg r b).freeCount = s.freeCount := rfl

/-! ### `setFlag`: `VF <- b` -/

@[simp] theorem State.setFlag_V (b : Byte) : (s.setFlag b).V = s.V.set Config.flagReg.val b Config.flagReg.isLt := rfl
@[simp] theorem State.setFlag_I (b : Byte) : (s.setFlag b).I = s.I := rfl
@[simp] theorem State.setFlag_pc (b : Byte) : (s.setFlag b).pc = s.pc := rfl
@[simp] theorem State.setFlag_stack (b : Byte) : (s.setFlag b).stack = s.stack := rfl
@[simp] theorem State.setFlag_mem (b : Byte) : (s.setFlag b).mem = s.mem := rfl
@[simp] theorem State.setFlag_DT (b : Byte) : (s.setFlag b).DT = s.DT := rfl
@[simp] theorem State.setFlag_ST (b : Byte) : (s.setFlag b).ST = s.ST := rfl
@[simp] theorem State.setFlag_fb (b : Byte) : (s.setFlag b).fb = s.fb := rfl
@[simp] theorem State.setFlag_dirty (b : Byte) : (s.setFlag b).dirty = s.dirty := rfl
@[simp] theorem State.setFlag_keys (b : Byte) : (s.setFlag b).keys = s.keys := rfl
@[simp] theorem State.setFlag_kstate (b : Byte) : (s.setFlag b).kstate = s.kstate := rfl
@[simp] theorem State.setFlag_latch (b : Byte) : (s.setFlag b).latch = s.latch := rfl
@[simp] theorem State.setFlag_fault (b : Byte) : (s.setFlag b).fault = s.fault := rfl
@[simp] theorem State.setFlag_paused (b : Byte) : (s.setFlag b).paused = s.paused := rfl
@[simp] theorem State.setFlag_stopped (b : Byte) : (s.setFlag b).stopped = s.stopped := rfl
@[simp] theorem State.setFlag_now (b : Byte) : (s.setFlag b).now = s.now := rfl
@[simp] theorem State.setFlag_pending (b : Byte) : (s.setFlag b).pending = s.pending := rfl
@[simp] theorem State.setFlag_randPort (b : Byte) : (s.setFlag b).randPort = s.randPort := rfl
@[simp] theorem State.setFlag_emitted (b : Byte) : (s.setFlag b).emitted = s.emitted := rfl
@[simp] theorem State.setFlag_freeCount (b : Byte) : (s.setFlag b).freeCount = s.freeCount := rfl

/-! ### `setI`: `I <- a` -/

@[simp] theorem State.setI_V (a : Word) : (s.setI a).V = s.V := rfl
@[simp] theorem State.setI_I (a : Word) : (s.setI a).I = a := rfl
@[simp] theorem State.setI_pc (a : Word) : (s.setI a).pc = s.pc := rfl
@[simp] theorem State.setI_stack (a : Word) : (s.setI a).stack = s.stack := rfl
@[simp] theorem State.setI_mem (a : Word) : (s.setI a).mem = s.mem := rfl
@[simp] theorem State.setI_DT (a : Word) : (s.setI a).DT = s.DT := rfl
@[simp] theorem State.setI_ST (a : Word) : (s.setI a).ST = s.ST := rfl
@[simp] theorem State.setI_fb (a : Word) : (s.setI a).fb = s.fb := rfl
@[simp] theorem State.setI_dirty (a : Word) : (s.setI a).dirty = s.dirty := rfl
@[simp] theorem State.setI_keys (a : Word) : (s.setI a).keys = s.keys := rfl
@[simp] theorem State.setI_kstate (a : Word) : (s.setI a).kstate = s.kstate := rfl
@[simp] theorem State.setI_latch (a : Word) : (s.setI a).latch = s.latch := rfl
@[simp] theorem State.setI_fault (a : Word) : (s.setI a).fault = s.fault := rfl
@[simp] theorem State.setI_paused (a : Word) : (s.setI a).paused = s.paused := rfl
@[simp] theorem State.setI_stopped (a : Word) : (s.setI a).stopped = s.stopped := rfl
@[simp] theorem State.setI_now (a : Word) : (s.setI a).now = s.now := rfl
@[simp] theorem State.setI_pending (a : Word) : (s.setI a).pending = s.pending := rfl
@[simp] theorem State.setI_randPort (a : Word) : (s.setI a).randPort = s.randPort := rfl
@[simp] theorem State.setI_emitted (a : Word) : (s.setI a).emitted = s.emitted := rfl
@[simp] theorem State.setI_freeCount (a : Word) : (s.setI a).freeCount = s.freeCount := rfl
@[simp] theorem State.setI_reg (a : Word) (q : Reg) : (s.setI a).reg q = s.reg q := rfl

/-! ### `jump`: `pc <- t` -/

@[simp] theorem State.jump_V (t : Word) : (s.jump t).V = s.V := rfl
@[simp] theorem State.jump_I (t : Word) : (s.jump t).I = s.I := rfl
@[simp] theorem State.jump_pc (t : Word) : (s.jump t).pc = t := rfl
@[simp] theorem State.jump_stack (t : Word) : (s.jump t).stack = s.stack := rfl
@[simp] theorem State.jump_mem (t : Word) : (s.jump t).mem = s.mem := rfl
@[simp] theorem State.jump_DT (t : Word) : (s.jump t).DT = s.DT := rfl
@[simp] theorem State.jump_ST (t : Word) : (s.jump t).ST = s.ST := rfl
@[simp] theorem State.jump_fb (t : Word) : (s.jump t).fb = s.fb := rfl
@[simp] theorem State.jump_dirty (t : Word) : (s.jump t).dirty = s.dirty := rfl
@[simp] theorem State.jump_keys (t : Word) : (s.jump t).keys = s.keys := rfl
@[simp] theorem State.jump_kstate (t : Word) : (s.jump t).kstate = s.kstate := rfl
@[simp] theorem State.jump_latch (t : Word) : (s.jump t).latch = s.latch := rfl
@[simp] theorem State.jump_fault (t : Word) : (s.jump t).fault = s.fault := rfl
@[simp] theorem State.jump_paused (t : Word) : (s.jump t).paused = s.paused := rfl
@[simp] theorem State.jump_stopped (t : Word) : (s.jump t).stopped = s.stopped := rfl
@[simp] theorem State.jump_now (t : Word) : (s.jump t).now = s.now := rfl
@[simp] theorem State.jump_pending (t : Word) : (s.jump t).pending = s.pending := rfl
@[simp] theorem State.jump_randPort (t : Word) : (s.jump t).randPort = s.randPort := rfl
@[simp] theorem State.jump_emitted (t : Word) : (s.jump t).emitted = s.emitted := rfl
@[simp] theorem State.jump_freeCount (t : Word) : (s.jump t).freeCount = s.freeCount := rfl
@[simp] theorem State.jump_reg (t : Word) (q : Reg) : (s.jump t).reg q = s.reg q := rfl

/-! ### `advance`: `pc <- pc + 2` -/

@[simp] theorem State.advance_V : (s.advance).V = s.V := rfl
@[simp] theorem State.advance_I : (s.advance).I = s.I := rfl
@[simp] theorem State.advance_pc : (s.advance).pc = s.pc + 2 := rfl
@[simp] theorem State.advance_stack : (s.advance).stack = s.stack := rfl
@[simp] theorem State.advance_mem : (s.advance).mem = s.mem := rfl
@[simp] theorem State.advance_DT : (s.advance).DT = s.DT := rfl
@[simp] theorem State.advance_ST : (s.advance).ST = s.ST := rfl
@[simp] theorem State.advance_fb : (s.advance).fb = s.fb := rfl
@[simp] theorem State.advance_dirty : (s.advance).dirty = s.dirty := rfl
@[simp] theorem State.advance_keys : (s.advance).keys = s.keys := rfl
@[simp] theorem State.advance_kstate : (s.advance).kstate = s.kstate := rfl
@[simp] theorem State.advance_latch : (s.advance).latch = s.latch := rfl
@[simp] theorem State.advance_fault : (s.advance).fault = s.fault := rfl
@[simp] theorem State.advance_paused : (s.advance).paused = s.paused := rfl
@[simp] theorem State.advance_stopped : (s.advance).stopped = s.stopped := rfl
@[simp] theorem State.advance_now : (s.advance).now = s.now := rfl
@[simp] theorem State.advance_pending : (s.advance).pending = s.pending := rfl
@[simp] theorem State.advance_randPort : (s.advance).randPort = s.randPort := rfl
@[simp] theorem State.advance_emitted : (s.advance).emitted = s.emitted := rfl
@[simp] theorem State.advance_freeCount : (s.advance).freeCount = s.freeCount := rfl
@[simp] theorem State.advance_reg (q : Reg) : (s.advance).reg q = s.reg q := rfl

/-! ### `skipIf`: a skip -/

@[simp] theorem State.skipIf_V (c : Bool) : (s.skipIf c).V = s.V := rfl
@[simp] theorem State.skipIf_I (c : Bool) : (s.skipIf c).I = s.I := rfl
@[simp] theorem State.skipIf_pc (c : Bool) : (s.skipIf c).pc = if c then s.pc + 4 else s.pc + 2 := rfl
@[simp] theorem State.skipIf_stack (c : Bool) : (s.skipIf c).stack = s.stack := rfl
@[simp] theorem State.skipIf_mem (c : Bool) : (s.skipIf c).mem = s.mem := rfl
@[simp] theorem State.skipIf_DT (c : Bool) : (s.skipIf c).DT = s.DT := rfl
@[simp] theorem State.skipIf_ST (c : Bool) : (s.skipIf c).ST = s.ST := rfl
@[simp] theorem State.skipIf_fb (c : Bool) : (s.skipIf c).fb = s.fb := rfl
@[simp] theorem State.skipIf_dirty (c : Bool) : (s.skipIf c).dirty = s.dirty := rfl
@[simp] theorem State.skipIf_keys (c : Bool) : (s.skipIf c).keys = s.keys := rfl
@[simp] theorem State.skipIf_kstate (c : Bool) : (s.skipIf c).kstate = s.kstate := rfl
@[simp] theorem State.skipIf_latch (c : Bool) : (s.skipIf c).latch = s.latch := rfl
@[simp] theorem State.skipIf_fault (c : Bool) : (s.skipIf c).fault = s.fault := rfl
@[simp] theorem State.skipIf_paused (c : Bool) : (s.skipIf c).paused = s.paused := rfl
@[simp] theorem State.skipIf_stopped (c : Bool) : (s.skipIf c).stopped = s.stopped := rfl
@[simp] theorem State.skipIf_now (c : Bool) : (s.skipIf c).now = s.now := rfl
@[simp] theorem State.skipIf_pending (c : Bool) : (s.skipIf c).pending = s.pending := rfl
@[simp] theorem State.skipIf_randPort (c : Bool) : (s.skipIf c).randPort = s.randPort := rfl
@[simp] theorem State.skipIf_emitted (c : Bool) : (s.skipIf c).emitted = s.emitted := rfl
@[simp] theorem State.skipIf_freeCount (c : Bool) : (s.skipIf c).freeCount = s.freeCount := rfl
@[simp] theorem State.skipIf_reg (c : Bool) (q : Reg) : (s.skipIf c).reg q = s.reg q := rfl

/-! ### `emit`: `emit` -/

@[simp] theorem State.emit_V (e : Emission) : (s.emit e).V = s.V := rfl
@[simp] theorem State.emit_I (e : Emission) : (s.emit e).I = s.I := rfl
@[simp] theorem State.emit_pc (e : Emission) : (s.emit e).pc = s.pc := rfl
@[simp] theorem State.emit_stack (e : Emission) : (s.emit e).stack = s.stack := rfl
@[simp] theorem State.emit_mem (e : Emission) : (s.emit e).mem = s.mem := rfl
@[simp] theorem State.emit_DT (e : Emission) : (s.emit e).DT = s.DT := rfl
@[simp] theorem State.emit_ST (e : Emission) : (s.emit e).ST = s.ST := rfl
@[simp] theorem State.emit_fb (e : Emission) : (s.emit e).fb = s.fb := rfl
@[simp] theorem State.emit_dirty (e : Emission) : (s.emit e).dirty = s.dirty := rfl
@[simp] theorem State.emit_keys (e : Emission) : (s.emit e).keys = s.keys := rfl
@[simp] theorem State.emit_kstate (e : Emission) : (s.emit e).kstate = s.kstate := rfl
@[simp] theorem State.emit_latch (e : Emission) : (s.emit e).latch = s.latch := rfl
@[simp] theorem State.emit_fault (e : Emission) : (s.emit e).fault = s.fault := rfl
@[simp] theorem State.emit_paused (e : Emission) : (s.emit e).paused = s.paused := rfl
@[simp] theorem State.emit_stopped (e : Emission) : (s.emit e).stopped = s.stopped := rfl
@[simp] theorem State.emit_now (e : Emission) : (s.emit e).now = s.now := rfl
@[simp] theorem State.emit_pending (e : Emission) : (s.emit e).pending = s.pending := rfl
@[simp] theorem State.emit_randPort (e : Emission) : (s.emit e).randPort = s.randPort := rfl
@[simp] theorem State.emit_emitted (e : Emission) : (s.emit e).emitted = e :: s.emitted := rfl
@[simp] theorem State.emit_freeCount (e : Emission) : (s.emit e).freeCount = s.freeCount := rfl
@[simp] theorem State.emit_reg (e : Emission) (q : Reg) : (s.emit e).reg q = s.reg q := rfl

/-! ### `raise`: fault entry -/

@[simp] theorem State.raise_V (c : FaultCode) : (s.raise c).V = s.V := rfl
@[simp] theorem State.raise_I (c : FaultCode) : (s.raise c).I = s.I := rfl
@[simp] theorem State.raise_pc (c : FaultCode) : (s.raise c).pc = s.pc := rfl
@[simp] theorem State.raise_stack (c : FaultCode) : (s.raise c).stack = s.stack := rfl
@[simp] theorem State.raise_mem (c : FaultCode) : (s.raise c).mem = s.mem := rfl
@[simp] theorem State.raise_DT (c : FaultCode) : (s.raise c).DT = s.DT := rfl
@[simp] theorem State.raise_ST (c : FaultCode) : (s.raise c).ST = s.ST := rfl
@[simp] theorem State.raise_fb (c : FaultCode) : (s.raise c).fb = s.fb := rfl
@[simp] theorem State.raise_dirty (c : FaultCode) : (s.raise c).dirty = s.dirty := rfl
@[simp] theorem State.raise_keys (c : FaultCode) : (s.raise c).keys = s.keys := rfl
@[simp] theorem State.raise_kstate (c : FaultCode) : (s.raise c).kstate = s.kstate := rfl
@[simp] theorem State.raise_latch (c : FaultCode) : (s.raise c).latch = s.latch := rfl
@[simp] theorem State.raise_fault (c : FaultCode) : (s.raise c).fault = some ⟨c, s.pc⟩ := rfl
@[simp] theorem State.raise_paused (c : FaultCode) : (s.raise c).paused = s.paused := rfl
@[simp] theorem State.raise_stopped (c : FaultCode) : (s.raise c).stopped = s.stopped := rfl
@[simp] theorem State.raise_now (c : FaultCode) : (s.raise c).now = s.now := rfl
@[simp] theorem State.raise_pending (c : FaultCode) : (s.raise c).pending = s.pending := rfl
@[simp] theorem State.raise_randPort (c : FaultCode) : (s.raise c).randPort = s.randPort := rfl
@[simp] theorem State.raise_emitted (c : FaultCode) : (s.raise c).emitted = s.emitted := rfl
@[simp] theorem State.raise_freeCount (c : FaultCode) : (s.raise c).freeCount = s.freeCount := rfl
@[simp] theorem State.raise_reg (c : FaultCode) (q : Reg) : (s.raise c).reg q = s.reg q := rfl

/-! ### `decayDT`: `Decay(DT, now)` -/

@[simp] theorem State.decayDT_V : (s.decayDT).V = s.V := rfl
@[simp] theorem State.decayDT_I : (s.decayDT).I = s.I := rfl
@[simp] theorem State.decayDT_pc : (s.decayDT).pc = s.pc := rfl
@[simp] theorem State.decayDT_stack : (s.decayDT).stack = s.stack := rfl
@[simp] theorem State.decayDT_mem : (s.decayDT).mem = s.mem := rfl
@[simp] theorem State.decayDT_DT : (s.decayDT).DT = s.DT.decay Config.tickInterval s.now := rfl
@[simp] theorem State.decayDT_ST : (s.decayDT).ST = s.ST := rfl
@[simp] theorem State.decayDT_fb : (s.decayDT).fb = s.fb := rfl
@[simp] theorem State.decayDT_dirty : (s.decayDT).dirty = s.dirty := rfl
@[simp] theorem State.decayDT_keys : (s.decayDT).keys = s.keys := rfl
@[simp] theorem State.decayDT_kstate : (s.decayDT).kstate = s.kstate := rfl
@[simp] theorem State.decayDT_latch : (s.decayDT).latch = s.latch := rfl
@[simp] theorem State.decayDT_fault : (s.decayDT).fault = s.fault := rfl
@[simp] theorem State.decayDT_paused : (s.decayDT).paused = s.paused := rfl
@[simp] theorem State.decayDT_stopped : (s.decayDT).stopped = s.stopped := rfl
@[simp] theorem State.decayDT_now : (s.decayDT).now = s.now := rfl
@[simp] theorem State.decayDT_pending : (s.decayDT).pending = s.pending := rfl
@[simp] theorem State.decayDT_randPort : (s.decayDT).randPort = s.randPort := rfl
@[simp] theorem State.decayDT_emitted : (s.decayDT).emitted = s.emitted := rfl
@[simp] theorem State.decayDT_freeCount : (s.decayDT).freeCount = s.freeCount := rfl
@[simp] theorem State.decayDT_reg (q : Reg) : (s.decayDT).reg q = s.reg q := rfl

/-! ### `decayST`: `Decay(ST, now)` -/

@[simp] theorem State.decayST_V : (s.decayST).V = s.V := rfl
@[simp] theorem State.decayST_I : (s.decayST).I = s.I := rfl
@[simp] theorem State.decayST_pc : (s.decayST).pc = s.pc := rfl
@[simp] theorem State.decayST_stack : (s.decayST).stack = s.stack := rfl
@[simp] theorem State.decayST_mem : (s.decayST).mem = s.mem := rfl
@[simp] theorem State.decayST_DT : (s.decayST).DT = s.DT := rfl
@[simp] theorem State.decayST_ST : (s.decayST).ST = s.ST.decay Config.tickInterval s.now := rfl
@[simp] theorem State.decayST_fb : (s.decayST).fb = s.fb := rfl
@[simp] theorem State.decayST_dirty : (s.decayST).dirty = s.dirty := rfl
@[simp] theorem State.decayST_keys : (s.decayST).keys = s.keys := rfl
@[simp] theorem State.decayST_kstate : (s.decayST).kstate = s.kstate := rfl
@[simp] theorem State.decayST_latch : (s.decayST).latch = s.latch := rfl
@[simp] theorem State.decayST_fault : (s.decayST).fault = s.fault := rfl
@[simp] theorem State.decayST_paused : (s.decayST).paused = s.paused := rfl
@[simp] theorem State.decayST_stopped : (s.decayST).stopped = s.stopped := rfl
@[simp] theorem State.decayST_now : (s.decayST).now = s.now := rfl
@[simp] theorem State.decayST_pending : (s.decayST).pending = s.pending := rfl
@[simp] theorem State.decayST_randPort : (s.decayST).randPort = s.randPort := rfl
@[simp] theorem State.decayST_emitted : (s.decayST).emitted = if audioDue s.ST (s.ST.decay Config.tickInterval s.now) then .audio :: s.emitted else s.emitted := rfl
@[simp] theorem State.decayST_freeCount : (s.decayST).freeCount = s.freeCount := rfl
@[simp] theorem State.decayST_reg (q : Reg) : (s.decayST).reg q = s.reg q := rfl

/-! ### `writeReg`: a register result -/

@[simp] theorem State.writeReg_V (r : Reg) (b : Byte) : (s.writeReg r b).V = s.V.set r.val b r.isLt := rfl
@[simp] theorem State.writeReg_I (r : Reg) (b : Byte) : (s.writeReg r b).I = s.I := rfl
@[simp] theorem State.writeReg_pc (r : Reg) (b : Byte) : (s.writeReg r b).pc = s.pc + 2 := rfl
@[simp] theorem State.writeReg_stack (r : Reg) (b : Byte) : (s.writeReg r b).stack = s.stack := rfl
@[simp] theorem State.writeReg_mem (r : Reg) (b : Byte) : (s.writeReg r b).mem = s.mem := rfl
@[simp] theorem State.writeReg_DT (r : Reg) (b : Byte) : (s.writeReg r b).DT = s.DT := rfl
@[simp] theorem State.writeReg_ST (r : Reg) (b : Byte) : (s.writeReg r b).ST = s.ST := rfl
@[simp] theorem State.writeReg_fb (r : Reg) (b : Byte) : (s.writeReg r b).fb = s.fb := rfl
@[simp] theorem State.writeReg_dirty (r : Reg) (b : Byte) : (s.writeReg r b).dirty = s.dirty := rfl
@[simp] theorem State.writeReg_keys (r : Reg) (b : Byte) : (s.writeReg r b).keys = s.keys := rfl
@[simp] theorem State.writeReg_kstate (r : Reg) (b : Byte) : (s.writeReg r b).kstate = s.kstate := rfl
@[simp] theorem State.writeReg_latch (r : Reg) (b : Byte) : (s.writeReg r b).latch = s.latch := rfl
@[simp] theorem State.writeReg_fault (r : Reg) (b : Byte) : (s.writeReg r b).fault = s.fault := rfl
@[simp] theorem State.writeReg_paused (r : Reg) (b : Byte) : (s.writeReg r b).paused = s.paused := rfl
@[simp] theorem State.writeReg_stopped (r : Reg) (b : Byte) : (s.writeReg r b).stopped = s.stopped := rfl
@[simp] theorem State.writeReg_now (r : Reg) (b : Byte) : (s.writeReg r b).now = s.now := rfl
@[simp] theorem State.writeReg_pending (r : Reg) (b : Byte) : (s.writeReg r b).pending = s.pending := rfl
@[simp] theorem State.writeReg_randPort (r : Reg) (b : Byte) : (s.writeReg r b).randPort = s.randPort := rfl
@[simp] theorem State.writeReg_emitted (r : Reg) (b : Byte) : (s.writeReg r b).emitted = s.emitted := rfl
@[simp] theorem State.writeReg_freeCount (r : Reg) (b : Byte) : (s.writeReg r b).freeCount = s.freeCount := rfl

/-! ### `writeRegFlag`: a register result and the flag -/

@[simp] theorem State.writeRegFlag_V (r : Reg) (b f : Byte) : (s.writeRegFlag r b f).V = (s.V.set r.val b r.isLt).set Config.flagReg.val f Config.flagReg.isLt := rfl
@[simp] theorem State.writeRegFlag_I (r : Reg) (b f : Byte) : (s.writeRegFlag r b f).I = s.I := rfl
@[simp] theorem State.writeRegFlag_pc (r : Reg) (b f : Byte) : (s.writeRegFlag r b f).pc = s.pc + 2 := rfl
@[simp] theorem State.writeRegFlag_stack (r : Reg) (b f : Byte) : (s.writeRegFlag r b f).stack = s.stack := rfl
@[simp] theorem State.writeRegFlag_mem (r : Reg) (b f : Byte) : (s.writeRegFlag r b f).mem = s.mem := rfl
@[simp] theorem State.writeRegFlag_DT (r : Reg) (b f : Byte) : (s.writeRegFlag r b f).DT = s.DT := rfl
@[simp] theorem State.writeRegFlag_ST (r : Reg) (b f : Byte) : (s.writeRegFlag r b f).ST = s.ST := rfl
@[simp] theorem State.writeRegFlag_fb (r : Reg) (b f : Byte) : (s.writeRegFlag r b f).fb = s.fb := rfl
@[simp] theorem State.writeRegFlag_dirty (r : Reg) (b f : Byte) : (s.writeRegFlag r b f).dirty = s.dirty := rfl
@[simp] theorem State.writeRegFlag_keys (r : Reg) (b f : Byte) : (s.writeRegFlag r b f).keys = s.keys := rfl
@[simp] theorem State.writeRegFlag_kstate (r : Reg) (b f : Byte) : (s.writeRegFlag r b f).kstate = s.kstate := rfl
@[simp] theorem State.writeRegFlag_latch (r : Reg) (b f : Byte) : (s.writeRegFlag r b f).latch = s.latch := rfl
@[simp] theorem State.writeRegFlag_fault (r : Reg) (b f : Byte) : (s.writeRegFlag r b f).fault = s.fault := rfl
@[simp] theorem State.writeRegFlag_paused (r : Reg) (b f : Byte) : (s.writeRegFlag r b f).paused = s.paused := rfl
@[simp] theorem State.writeRegFlag_stopped (r : Reg) (b f : Byte) : (s.writeRegFlag r b f).stopped = s.stopped := rfl
@[simp] theorem State.writeRegFlag_now (r : Reg) (b f : Byte) : (s.writeRegFlag r b f).now = s.now := rfl
@[simp] theorem State.writeRegFlag_pending (r : Reg) (b f : Byte) : (s.writeRegFlag r b f).pending = s.pending := rfl
@[simp] theorem State.writeRegFlag_randPort (r : Reg) (b f : Byte) : (s.writeRegFlag r b f).randPort = s.randPort := rfl
@[simp] theorem State.writeRegFlag_emitted (r : Reg) (b f : Byte) : (s.writeRegFlag r b f).emitted = s.emitted := rfl
@[simp] theorem State.writeRegFlag_freeCount (r : Reg) (b f : Byte) : (s.writeRegFlag r b f).freeCount = s.freeCount := rfl

/-! ### `storeAtI`: a store from `I` on -/

@[simp] theorem State.storeAtI_V (bs : List Byte) : (s.storeAtI bs).V = s.V := rfl
@[simp] theorem State.storeAtI_I (bs : List Byte) : (s.storeAtI bs).I = s.I := rfl
@[simp] theorem State.storeAtI_pc (bs : List Byte) : (s.storeAtI bs).pc = s.pc + 2 := rfl
@[simp] theorem State.storeAtI_stack (bs : List Byte) : (s.storeAtI bs).stack = s.stack := rfl
@[simp] theorem State.storeAtI_mem (bs : List Byte) : (s.storeAtI bs).mem = s.mem.store s.dataBase bs := rfl
@[simp] theorem State.storeAtI_DT (bs : List Byte) : (s.storeAtI bs).DT = s.DT := rfl
@[simp] theorem State.storeAtI_ST (bs : List Byte) : (s.storeAtI bs).ST = s.ST := rfl
@[simp] theorem State.storeAtI_fb (bs : List Byte) : (s.storeAtI bs).fb = s.fb := rfl
@[simp] theorem State.storeAtI_dirty (bs : List Byte) : (s.storeAtI bs).dirty = s.dirty := rfl
@[simp] theorem State.storeAtI_keys (bs : List Byte) : (s.storeAtI bs).keys = s.keys := rfl
@[simp] theorem State.storeAtI_kstate (bs : List Byte) : (s.storeAtI bs).kstate = s.kstate := rfl
@[simp] theorem State.storeAtI_latch (bs : List Byte) : (s.storeAtI bs).latch = s.latch := rfl
@[simp] theorem State.storeAtI_fault (bs : List Byte) : (s.storeAtI bs).fault = s.fault := rfl
@[simp] theorem State.storeAtI_paused (bs : List Byte) : (s.storeAtI bs).paused = s.paused := rfl
@[simp] theorem State.storeAtI_stopped (bs : List Byte) : (s.storeAtI bs).stopped = s.stopped := rfl
@[simp] theorem State.storeAtI_now (bs : List Byte) : (s.storeAtI bs).now = s.now := rfl
@[simp] theorem State.storeAtI_pending (bs : List Byte) : (s.storeAtI bs).pending = s.pending := rfl
@[simp] theorem State.storeAtI_randPort (bs : List Byte) : (s.storeAtI bs).randPort = s.randPort := rfl
@[simp] theorem State.storeAtI_emitted (bs : List Byte) : (s.storeAtI bs).emitted = s.emitted := rfl
@[simp] theorem State.storeAtI_freeCount (bs : List Byte) : (s.storeAtI bs).freeCount = s.freeCount := rfl
@[simp] theorem State.storeAtI_reg (bs : List Byte) (q : Reg) : (s.storeAtI bs).reg q = s.reg q := rfl

/-! ### `loadRegsFrom`: a load of registers -/

@[simp] theorem State.loadRegsFrom_V (a : Nat) (x : Reg) : (s.loadRegsFrom a x).V =
    s.V.mapFinIdx fun i old _ => if i ≤ x.val then s.mem.read (a + i) else old := rfl
@[simp] theorem State.loadRegsFrom_I (a : Nat) (x : Reg) : (s.loadRegsFrom a x).I = s.I := rfl
@[simp] theorem State.loadRegsFrom_pc (a : Nat) (x : Reg) : (s.loadRegsFrom a x).pc = s.pc := rfl
@[simp] theorem State.loadRegsFrom_stack (a : Nat) (x : Reg) : (s.loadRegsFrom a x).stack = s.stack := rfl
@[simp] theorem State.loadRegsFrom_mem (a : Nat) (x : Reg) : (s.loadRegsFrom a x).mem = s.mem := rfl
@[simp] theorem State.loadRegsFrom_DT (a : Nat) (x : Reg) : (s.loadRegsFrom a x).DT = s.DT := rfl
@[simp] theorem State.loadRegsFrom_ST (a : Nat) (x : Reg) : (s.loadRegsFrom a x).ST = s.ST := rfl
@[simp] theorem State.loadRegsFrom_fb (a : Nat) (x : Reg) : (s.loadRegsFrom a x).fb = s.fb := rfl
@[simp] theorem State.loadRegsFrom_dirty (a : Nat) (x : Reg) : (s.loadRegsFrom a x).dirty = s.dirty := rfl
@[simp] theorem State.loadRegsFrom_keys (a : Nat) (x : Reg) : (s.loadRegsFrom a x).keys = s.keys := rfl
@[simp] theorem State.loadRegsFrom_kstate (a : Nat) (x : Reg) : (s.loadRegsFrom a x).kstate = s.kstate := rfl
@[simp] theorem State.loadRegsFrom_latch (a : Nat) (x : Reg) : (s.loadRegsFrom a x).latch = s.latch := rfl
@[simp] theorem State.loadRegsFrom_fault (a : Nat) (x : Reg) : (s.loadRegsFrom a x).fault = s.fault := rfl
@[simp] theorem State.loadRegsFrom_paused (a : Nat) (x : Reg) : (s.loadRegsFrom a x).paused = s.paused := rfl
@[simp] theorem State.loadRegsFrom_stopped (a : Nat) (x : Reg) : (s.loadRegsFrom a x).stopped = s.stopped := rfl
@[simp] theorem State.loadRegsFrom_now (a : Nat) (x : Reg) : (s.loadRegsFrom a x).now = s.now := rfl
@[simp] theorem State.loadRegsFrom_pending (a : Nat) (x : Reg) : (s.loadRegsFrom a x).pending = s.pending := rfl
@[simp] theorem State.loadRegsFrom_randPort (a : Nat) (x : Reg) : (s.loadRegsFrom a x).randPort = s.randPort := rfl
@[simp] theorem State.loadRegsFrom_emitted (a : Nat) (x : Reg) : (s.loadRegsFrom a x).emitted = s.emitted := rfl
@[simp] theorem State.loadRegsFrom_freeCount (a : Nat) (x : Reg) : (s.loadRegsFrom a x).freeCount = s.freeCount := rfl

/-! ### `setKey`: `keys[k] <- b` -/

@[simp] theorem State.setKey_V (k : Key) (b : Bool) : (s.setKey k b).V = s.V := rfl
@[simp] theorem State.setKey_I (k : Key) (b : Bool) : (s.setKey k b).I = s.I := rfl
@[simp] theorem State.setKey_pc (k : Key) (b : Bool) : (s.setKey k b).pc = s.pc := rfl
@[simp] theorem State.setKey_stack (k : Key) (b : Bool) : (s.setKey k b).stack = s.stack := rfl
@[simp] theorem State.setKey_mem (k : Key) (b : Bool) : (s.setKey k b).mem = s.mem := rfl
@[simp] theorem State.setKey_DT (k : Key) (b : Bool) : (s.setKey k b).DT = s.DT := rfl
@[simp] theorem State.setKey_ST (k : Key) (b : Bool) : (s.setKey k b).ST = s.ST := rfl
@[simp] theorem State.setKey_fb (k : Key) (b : Bool) : (s.setKey k b).fb = s.fb := rfl
@[simp] theorem State.setKey_dirty (k : Key) (b : Bool) : (s.setKey k b).dirty = s.dirty := rfl
@[simp] theorem State.setKey_keys (k : Key) (b : Bool) : (s.setKey k b).keys = s.keys.set k.val b k.isLt := rfl
@[simp] theorem State.setKey_kstate (k : Key) (b : Bool) : (s.setKey k b).kstate = s.kstate := rfl
@[simp] theorem State.setKey_latch (k : Key) (b : Bool) : (s.setKey k b).latch = s.latch := rfl
@[simp] theorem State.setKey_fault (k : Key) (b : Bool) : (s.setKey k b).fault = s.fault := rfl
@[simp] theorem State.setKey_paused (k : Key) (b : Bool) : (s.setKey k b).paused = s.paused := rfl
@[simp] theorem State.setKey_stopped (k : Key) (b : Bool) : (s.setKey k b).stopped = s.stopped := rfl
@[simp] theorem State.setKey_now (k : Key) (b : Bool) : (s.setKey k b).now = s.now := rfl
@[simp] theorem State.setKey_pending (k : Key) (b : Bool) : (s.setKey k b).pending = s.pending := rfl
@[simp] theorem State.setKey_randPort (k : Key) (b : Bool) : (s.setKey k b).randPort = s.randPort := rfl
@[simp] theorem State.setKey_emitted (k : Key) (b : Bool) : (s.setKey k b).emitted = s.emitted := rfl
@[simp] theorem State.setKey_freeCount (k : Key) (b : Bool) : (s.setKey k b).freeCount = s.freeCount := rfl
@[simp] theorem State.setKey_reg (k : Key) (b : Bool) (q : Reg) : (s.setKey k b).reg q = s.reg q := rfl

/-! ### `pressKey`: `keyDown(k)` -/

@[simp] theorem State.pressKey_V (k : Key) : (s.pressKey k).V = s.V := rfl
@[simp] theorem State.pressKey_I (k : Key) : (s.pressKey k).I = s.I := rfl
@[simp] theorem State.pressKey_pc (k : Key) : (s.pressKey k).pc = s.pc := rfl
@[simp] theorem State.pressKey_stack (k : Key) : (s.pressKey k).stack = s.stack := rfl
@[simp] theorem State.pressKey_mem (k : Key) : (s.pressKey k).mem = s.mem := rfl
@[simp] theorem State.pressKey_DT (k : Key) : (s.pressKey k).DT = s.DT := rfl
@[simp] theorem State.pressKey_ST (k : Key) : (s.pressKey k).ST = s.ST := rfl
@[simp] theorem State.pressKey_fb (k : Key) : (s.pressKey k).fb = s.fb := rfl
@[simp] theorem State.pressKey_dirty (k : Key) : (s.pressKey k).dirty = s.dirty := rfl
@[simp] theorem State.pressKey_keys (k : Key) : (s.pressKey k).keys = s.keys.set k.val true k.isLt := rfl
@[simp] theorem State.pressKey_kstate (k : Key) : (s.pressKey k).kstate = s.kstate := rfl
@[simp] theorem State.pressKey_latch (k : Key) : (s.pressKey k).latch = if s.kstate = .waiting then some k else s.latch := rfl
@[simp] theorem State.pressKey_fault (k : Key) : (s.pressKey k).fault = s.fault := rfl
@[simp] theorem State.pressKey_paused (k : Key) : (s.pressKey k).paused = s.paused := rfl
@[simp] theorem State.pressKey_stopped (k : Key) : (s.pressKey k).stopped = s.stopped := rfl
@[simp] theorem State.pressKey_now (k : Key) : (s.pressKey k).now = s.now := rfl
@[simp] theorem State.pressKey_pending (k : Key) : (s.pressKey k).pending = s.pending := rfl
@[simp] theorem State.pressKey_randPort (k : Key) : (s.pressKey k).randPort = s.randPort := rfl
@[simp] theorem State.pressKey_emitted (k : Key) : (s.pressKey k).emitted = s.emitted := rfl
@[simp] theorem State.pressKey_freeCount (k : Key) : (s.pressKey k).freeCount = s.freeCount := rfl
@[simp] theorem State.pressKey_reg (k : Key) (q : Reg) : (s.pressKey k).reg q = s.reg q := rfl

/-! ### `render`: the render notification -/

@[simp] theorem State.render_V : (s.render).V = s.V := rfl
@[simp] theorem State.render_I : (s.render).I = s.I := rfl
@[simp] theorem State.render_pc : (s.render).pc = s.pc := rfl
@[simp] theorem State.render_stack : (s.render).stack = s.stack := rfl
@[simp] theorem State.render_mem : (s.render).mem = s.mem := rfl
@[simp] theorem State.render_DT : (s.render).DT = s.DT := rfl
@[simp] theorem State.render_ST : (s.render).ST = s.ST := rfl
@[simp] theorem State.render_fb : (s.render).fb = s.fb := rfl
@[simp] theorem State.render_dirty : (s.render).dirty = false := rfl
@[simp] theorem State.render_keys : (s.render).keys = s.keys := rfl
@[simp] theorem State.render_kstate : (s.render).kstate = s.kstate := rfl
@[simp] theorem State.render_latch : (s.render).latch = s.latch := rfl
@[simp] theorem State.render_fault : (s.render).fault = s.fault := rfl
@[simp] theorem State.render_paused : (s.render).paused = s.paused := rfl
@[simp] theorem State.render_stopped : (s.render).stopped = s.stopped := rfl
@[simp] theorem State.render_now : (s.render).now = s.now := rfl
@[simp] theorem State.render_pending : (s.render).pending = s.pending := rfl
@[simp] theorem State.render_randPort : (s.render).randPort = s.randPort := rfl
@[simp] theorem State.render_emitted : (s.render).emitted = if s.dirty then .render s.fb :: s.emitted else s.emitted := rfl
@[simp] theorem State.render_freeCount : (s.render).freeCount = s.freeCount := rfl
@[simp] theorem State.render_reg (q : Reg) : (s.render).reg q = s.reg q := rfl

end Sys2Proof.Machine
end

