-- ==== Sys2Proof/Laws/Ops.lean ====
section
/-! SUPPORT. What the stack, port, timer and event operations can do, said once for each. -/

namespace Sys2Proof.Machine

variable (s : State)

/-! ## The call stack (40_flow_control.md R80, R81) -/

theorem State.push_room {s : State} (h : s.stack.length < 16) (v : Word) :
    s.push v = .ok { s with stack := s.stack ++ [v] } := by
  simp [State.push, Config.stackDepth, h]

theorem State.push_full {s : State} (h : 16 ≤ s.stack.length) (v : Word) :
    s.push v = .error .stackOverflow := by
  simp [State.push, Config.stackDepth, Nat.not_lt.2 h]

theorem State.pop_concat {s : State} {l : List Word} {v : Word} (h : s.stack = l ++ [v]) :
    s.pop = .ok (v, { s with stack := l }) := by
  simp [State.pop, h]

theorem State.pop_empty {s : State} (h : s.stack = []) : s.pop = .error .stackUnderflow := by
  simp [State.pop, h]

/-! ## Input ports -/

/-- A draw changes the port and the free-value counter only. -/
theorem State.drawRand_frame :
    ∃ p n, s.drawRand.2 = { s with randPort := p, freeCount := n } := by
  unfold State.drawRand
  split
  · exact ⟨_, _, rfl⟩
  · exact ⟨s.randPort, _, rfl⟩

theorem State.drawRand_cons {s : State} {b : Byte} {bs : List Byte} (h : s.randPort = b :: bs) :
    s.drawRand = (b, { s with randPort := bs }) := by
  simp [State.drawRand, h]

/-- The byte a draw gives is the next one on the port, or a free value. -/
theorem State.drawRand_fst :
    s.drawRand.1 = s.randPort.headD (Config.freeByte s.freeCount) := by
  unfold State.drawRand
  split <;> simp_all

/-- Taking the cycle's input changes the port and the free-value counter only. -/
theorem State.takeInput_frame :
    ∃ p n, s.takeInput.2 = { s with pending := p, freeCount := n } := by
  unfold State.takeInput
  split
  · exact ⟨_, _, rfl⟩
  · exact ⟨s.pending, _, rfl⟩

theorem State.takeInput_cons {s : State} {c : CycleInput} {cs : List CycleInput}
    (h : s.pending = c :: cs) : s.takeInput = (c, { s with pending := cs }) := by
  simp [State.takeInput, h]

/-! ## Timers (44_random_timers.md R132) -/

theorem Timer.decay_of_le {interval now : Nat} {t : Timer} (h : now ≤ t.last) :
    t.decay interval now = t := by
  simp [Timer.decay, Timer.ticks, Nat.not_lt.2 h]

theorem Timer.decay_of_ticks_zero {interval now : Nat} {t : Timer} (h : t.ticks interval now = 0) :
    t.decay interval now = t := by
  simp [Timer.decay, h]

theorem Timer.decay_of_ticks_pos {interval now : Nat} {t : Timer} (h : 1 ≤ t.ticks interval now) :
    t.decay interval now =
      { count := BitVec.ofNat 8 (t.count.toNat - min (t.ticks interval now) t.count.toNat)
        last := t.last + t.ticks interval now * interval } := by
  simp [Timer.decay, h]

/-- The count after decay, clamped at zero. -/
theorem Timer.decay_count {interval now : Nat} (t : Timer) :
    (t.decay interval now).count.toNat = t.count.toNat - t.ticks interval now := by
  have := t.count.isLt
  by_cases h : 1 ≤ t.ticks interval now
  · rw [Timer.decay_of_ticks_pos h]
    simp only [BitVec.toNat_ofNat]
    omega
  · rw [Timer.decay_of_ticks_zero (by omega)]
    omega

/-- The timestamp after decay: the whole intervals are consumed, the remainder is kept. -/
theorem Timer.decay_last {interval now : Nat} (t : Timer) :
    (t.decay interval now).last = t.last + t.ticks interval now * interval := by
  by_cases h : 1 ≤ t.ticks interval now
  · rw [Timer.decay_of_ticks_pos h]
  · have h0 : t.ticks interval now = 0 := by omega
    rw [Timer.decay_of_ticks_zero h0, h0]
    simp

/-! ## Events (60_exceptions.md R181) -/

theorem keyOfCode_natCast (k : Key) : keyOfCode (k.val : Int) = some k := by
  have h : (0 : Int) ≤ (k.val : Int) ∧ (k.val : Int) < 16 := by omega
  simp only [keyOfCode, dif_pos h]
  rfl

theorem keyOfCode_out {c : Int} (h : c < 0 ∨ 15 < c) : keyOfCode c = none := by
  have : ¬ (0 ≤ c ∧ c < 16) := by omega
  simp [keyOfCode, this]

/-- What an event leaves alone: everything but the keys, the latch, the scheduler bits and the
diagnostics. -/
structure EventFrame (s t : State) : Prop where
  V : t.V = s.V
  I : t.I = s.I
  pc : t.pc = s.pc
  stack : t.stack = s.stack
  mem : t.mem = s.mem
  DT : t.DT = s.DT
  ST : t.ST = s.ST
  fb : t.fb = s.fb
  dirty : t.dirty = s.dirty
  kstate : t.kstate = s.kstate
  fault : t.fault = s.fault
  now : t.now = s.now
  pending : t.pending = s.pending
  randPort : t.randPort = s.randPort
  freeCount : t.freeCount = s.freeCount

theorem EventFrame.refl (s : State) : EventFrame s s := by constructor <;> rfl

theorem EventFrame.trans {s t u : State} (h : EventFrame s t) (k : EventFrame t u) :
    EventFrame s u := by
  constructor
  exacts [k.V.trans h.V, k.I.trans h.I, k.pc.trans h.pc, k.stack.trans h.stack, k.mem.trans h.mem,
    k.DT.trans h.DT, k.ST.trans h.ST, k.fb.trans h.fb, k.dirty.trans h.dirty,
    k.kstate.trans h.kstate, k.fault.trans h.fault, k.now.trans h.now,
    k.pending.trans h.pending, k.randPort.trans h.randPort, k.freeCount.trans h.freeCount]

theorem State.applyEvent_frame (e : Event) : EventFrame s (s.applyEvent e) := by
  cases e <;> simp only [State.applyEvent] <;> first | (split <;> constructor <;> rfl) | (constructor <;> rfl)

/-- So does a list of events. -/
theorem State.applyEvents_frame : ∀ (es : List Event) (s : State), EventFrame s (s.applyEvents es)
  | [], s => EventFrame.refl s
  | e :: es, s => (s.applyEvent_frame e).trans (State.applyEvents_frame es (s.applyEvent e))

/-- An event fills the latch only while a key read waits (46_keypad.md R164). -/
theorem State.applyEvent_latch {s : State} {e : Event} {k : Key} (h : (s.applyEvent e).latch = some k) :
    s.latch = some k ∨ s.kstate = .waiting := by
  by_cases hw : s.kstate = .waiting
  · exact .inr hw
  · left
    cases e <;> simp only [State.applyEvent] at h
    case keyDown c =>
      split at h
      · simpa [hw] using h
      · exact h
    case keyUp c =>
      split at h <;> exact h
    all_goals exact h

theorem State.applyEvents_latch {k : Key} : ∀ {es : List Event} {s : State},
    (s.applyEvents es).latch = some k → s.latch = some k ∨ s.kstate = .waiting
  | [], _, h => .inl h
  | e :: es, s, h => by
    have hk : (s.applyEvent e).kstate = s.kstate := (s.applyEvent_frame e).kstate
    rcases State.applyEvents_latch (s := s.applyEvent e) (es := es) h with h' | h'
    · exact State.applyEvent_latch h'
    · exact .inr (hk ▸ h')

end Sys2Proof.Machine
end

