-- ==== Sys2Proof/Laws/Cycle.lean ====
section
/-! SUPPORT. What one scheduler cycle can do (60_exceptions.md R179): what stands before the executor unchanged, and the inversion of step. -/

namespace Sys2Proof.Machine

variable (s : State)

/-- Steps 1 and 2 of a cycle are the events applied to the state with its input taken and the new
sample in place; they leave alone what that input and the events do not name. -/
theorem State.poll_frame :
    ∃ p n, EventFrame { s with now := s.takeInput.1.now, pending := p, freeCount := n } s.poll := by
  obtain ⟨p, n, h⟩ := s.takeInput_frame
  refine ⟨p, n, ?_⟩
  unfold State.poll
  rw [h]
  exact State.applyEvents_frame _ _

@[simp] theorem State.beforeExec_V : s.beforeExec.V = s.V := by
  obtain ⟨_, _, h⟩ := s.poll_frame
  exact h.V

@[simp] theorem State.beforeExec_I : s.beforeExec.I = s.I := by
  obtain ⟨_, _, h⟩ := s.poll_frame
  exact h.I

@[simp] theorem State.beforeExec_pc : s.beforeExec.pc = s.pc := by
  obtain ⟨_, _, h⟩ := s.poll_frame
  exact h.pc

@[simp] theorem State.beforeExec_stack : s.beforeExec.stack = s.stack := by
  obtain ⟨_, _, h⟩ := s.poll_frame
  exact h.stack

@[simp] theorem State.beforeExec_mem : s.beforeExec.mem = s.mem := by
  obtain ⟨_, _, h⟩ := s.poll_frame
  exact h.mem

@[simp] theorem State.beforeExec_fb : s.beforeExec.fb = s.fb := by
  obtain ⟨_, _, h⟩ := s.poll_frame
  exact h.fb

@[simp] theorem State.beforeExec_dirty : s.beforeExec.dirty = s.dirty := by
  obtain ⟨_, _, h⟩ := s.poll_frame
  exact h.dirty

@[simp] theorem State.beforeExec_kstate : s.beforeExec.kstate = s.kstate := by
  obtain ⟨_, _, h⟩ := s.poll_frame
  exact h.kstate

@[simp] theorem State.beforeExec_fault : s.beforeExec.fault = s.fault := by
  obtain ⟨_, _, h⟩ := s.poll_frame
  exact h.fault

@[simp] theorem State.beforeExec_randPort : s.beforeExec.randPort = s.randPort := by
  obtain ⟨_, _, h⟩ := s.poll_frame
  exact h.randPort

@[simp] theorem State.beforeExec_reg (q : Reg) : s.beforeExec.reg q = s.reg q := by
  simp [State.reg]
@[simp] theorem State.beforeExec_fetchWord : s.beforeExec.fetchWord = s.fetchWord := by
  simp [State.fetchWord]

/-- The polled latch holds a key only if it did before or a key read waits. -/
theorem State.beforeExec_latch {s : State} {k : Key} (h : s.beforeExec.latch = some k) :
    s.latch = some k ∨ s.kstate = .waiting := by
  have h' : s.poll.latch = some k := h
  obtain ⟨p, n, hf⟩ := s.takeInput_frame
  have := State.applyEvents_latch h'
  rw [hf] at this
  exact this

/-- A step answers a next state exactly when a cycle begins and its fourth part answers one; then
it is that state after the render notification. -/
theorem step_next {s t : State} :
    step s = .next t ↔ s.fault = none ∧ s.stopped = false ∧
      ∃ u, runUnlessPaused s.beforeExec = .next u ∧ t = u.render := by
  simp only [step, runCycle]
  cases s.fault with
  | some r => simp
  | none =>
    by_cases hs : s.stopped
    · simp [hs]
    · cases hr : runUnlessPaused s.beforeExec <;> simp [hs, finishCycle, eq_comm]

theorem runUnlessPaused_paused {s : State} (h : s.paused = true) : runUnlessPaused s = .next s := by
  simp [runUnlessPaused, h]

theorem runUnlessPaused_running {s : State} (h : s.paused = false) :
    runUnlessPaused s = invoke s := by
  simp [runUnlessPaused, h]

theorem invoke_of_decoded {s : State} {i : Instr} (h : decodeWord? s.fetchWord = some i) :
    invoke s = exec i s := by
  simp [invoke, h]

theorem invoke_of_unknown {s : State} (h : decodeWord? s.fetchWord = none) :
    invoke s = execUnknown (firstByte s.fetchWord) (secondByte s.fetchWord) s := by
  simp [invoke, h]

end Sys2Proof.Machine
end

