-- ==== Sys2Proof/Laws/Decode.lean ====
section
/-! SUPPORT. The fields of composed words (30_encoding.md R61, R62), and what the decoder reads from each format. -/

namespace Sys2Proof

theorem bitField_ofNat {k : Nat} (hk : k < 65536) (lo width : Nat) :
    bitField (BitVec.ofNat 16 k) lo width = k / 2 ^ lo % 2 ^ width := by
  simp [bitField, Nat.mod_eq_of_lt hk]

section Formats

variable {op : Nat} (hop : op < 16)
include hop

theorem opOf_encNNN (a : Addr12) : opOf (encNNN op a) = op := by
  have := a.isLt
  rw [opOf, encNNN, bitField_ofNat (by omega)]
  omega

theorem nnnOf_encNNN (a : Addr12) : nnnOf (encNNN op a) = a := by
  have := a.isLt
  rw [nnnOf, encNNN, bitField_ofNat (by omega)]
  apply BitVec.eq_of_toNat_eq
  simp only [BitVec.toNat_ofNat]
  omega

theorem opOf_encXKK (x : Reg) (kk : Byte) : opOf (encXKK op x kk) = op := by
  have := kk.isLt
  rw [opOf, encXKK, bitField_ofNat (by omega)]
  omega

theorem xOf_encXKK (x : Reg) (kk : Byte) : xOf (encXKK op x kk) = x := by
  have := kk.isLt
  rw [xOf, encXKK, bitField_ofNat (by omega)]
  apply Fin.ext
  simp only [Fin.ofNat]
  omega

theorem kkOf_encXKK (x : Reg) (kk : Byte) : kkOf (encXKK op x kk) = kk := by
  have := kk.isLt
  rw [kkOf, encXKK, bitField_ofNat (by omega)]
  apply BitVec.eq_of_toNat_eq
  simp only [BitVec.toNat_ofNat]
  omega

theorem opOf_encXYN (x y : Reg) {n : Nat} (hn : n < 16) : opOf (encXYN op x y n) = op := by
  rw [opOf, encXYN, bitField_ofNat (by omega)]
  omega

theorem xOf_encXYN (x y : Reg) {n : Nat} (hn : n < 16) : xOf (encXYN op x y n) = x := by
  rw [xOf, encXYN, bitField_ofNat (by omega)]
  apply Fin.ext
  simp only [Fin.ofNat]
  omega

theorem yOf_encXYN (x y : Reg) {n : Nat} (hn : n < 16) : yOf (encXYN op x y n) = y := by
  rw [yOf, encXYN, bitField_ofNat (by omega)]
  apply Fin.ext
  simp only [Fin.ofNat]
  omega

theorem nOf_encXYN (x y : Reg) {n : Nat} (hn : n < 16) : nOf (encXYN op x y n) = n := by
  rw [nOf, encXYN, bitField_ofNat (by omega)]
  omega

theorem opOf_encXS (x : Reg) {sub : Nat} (hs : sub < 256) : opOf (encXS op x sub) = op := by
  rw [opOf, encXS, bitField_ofNat (by omega)]
  omega

theorem xOf_encXS (x : Reg) {sub : Nat} (hs : sub < 256) : xOf (encXS op x sub) = x := by
  rw [xOf, encXS, bitField_ofNat (by omega)]
  apply Fin.ext
  simp only [Fin.ofNat]
  omega

theorem bitField_encXS (x : Reg) {sub : Nat} (hs : sub < 256) :
    bitField (encXS op x sub) 0 8 = sub := by
  rw [encXS, bitField_ofNat (by omega)]
  omega

end Formats

/-! ## The bytes of a word (R45) -/

theorem wordOfBytes_toNat (b0 b1 : Byte) : (wordOfBytes b0 b1).toNat = b0.toNat * 256 + b1.toNat := by
  rw [wordOfBytes, BitVec.toNat_append, ← Nat.shiftLeft_add_eq_or_of_lt b1.isLt, Nat.shiftLeft_eq]

theorem firstByte_wordOfBytes (b0 b1 : Byte) : firstByte (wordOfBytes b0 b1) = b0 := by
  apply BitVec.eq_of_toNat_eq
  have h0 := b0.isLt
  have h1 := b1.isLt
  simp only [firstByte, bitField, wordOfBytes_toNat, BitVec.toNat_ofNat]
  omega

theorem secondByte_wordOfBytes (b0 b1 : Byte) : secondByte (wordOfBytes b0 b1) = b1 := by
  apply BitVec.eq_of_toNat_eq
  have h0 := b0.isLt
  have h1 := b1.isLt
  simp only [secondByte, bitField, wordOfBytes_toNat, BitVec.toNat_ofNat]
  omega

theorem wordOfBytes_bytesOfWord (w : Word) : wordOfBytes (firstByte w) (secondByte w) = w := by
  apply BitVec.eq_of_toNat_eq
  have := w.isLt
  rw [wordOfBytes_toNat]
  simp only [firstByte, secondByte, bitField, BitVec.toNat_ofNat]
  omega

/-! ## Masks: the bits a row of the decode table fixes (R64) -/

/-- The mask `F000` keeps the family nibble. -/
theorem and_F000 (w : Word) : (w &&& 0xF000#16).toNat = opOf w * 0x1000 := by
  have h := w.isLt
  have key : ∀ n : Nat, n < 65536 → n &&& 0xF000 = n / 4096 % 16 * 4096 := by
    intro n hn
    apply Nat.eq_of_testBit_eq
    intro j
    rw [Nat.testBit_and, show (4096 : Nat) = 2 ^ 12 from rfl, Nat.testBit_mul_two_pow,
      show (16 : Nat) = 2 ^ 4 from rfl, Nat.testBit_mod_two_pow, Nat.testBit_div_two_pow,
      show (0xF000 : Nat) = (2 ^ 4 - 1) * 2 ^ 12 from rfl, Nat.testBit_mul_two_pow,
      Nat.testBit_two_pow_sub_one]
    by_cases hj : 12 ≤ j
    · simp only [hj, decide_true, Bool.true_and, Nat.sub_add_cancel hj]
      rw [Bool.and_comm]
    · simp [hj]
  simpa [opOf, bitField] using key w.toNat h

/-- The mask `F0FF` keeps the family nibble and the second byte. -/
theorem and_F0FF (w : Word) : (w &&& 0xF0FF#16).toNat = opOf w * 0x1000 + bitField w 0 8 := by
  have hlow : (w &&& 0x00FF#16).toNat = bitField w 0 8 := by
    simpa [bitField] using Nat.and_two_pow_sub_one_eq_mod w.toNat 8
  have hlt : bitField w 0 8 < 2 ^ 12 :=
    (Nat.mod_lt _ (by decide)).trans (by decide : (2 : Nat) ^ 8 < 2 ^ 12)
  rw [show (0xF0FF#16 : Word) = 0xF000#16 ||| 0x00FF#16 from rfl, BitVec.and_or_distrib_left,
    BitVec.toNat_or, and_F000, hlow, show opOf w * 0x1000 = opOf w <<< 12 by
      rw [Nat.shiftLeft_eq], Nat.shiftLeft_add_eq_or_of_lt hlt]

/-- The mask `F00F` keeps the family nibble and the low nibble. -/
theorem and_F00F (w : Word) : (w &&& 0xF00F#16).toNat = opOf w * 0x1000 + nOf w := by
  have hlow : (w &&& 0x000F#16).toNat = nOf w := by
    simpa [nOf, bitField] using Nat.and_two_pow_sub_one_eq_mod w.toNat 4
  have hlt : nOf w < 2 ^ 12 :=
    (Nat.mod_lt _ (by decide)).trans (by decide : (2 : Nat) ^ 4 < 2 ^ 12)
  rw [show (0xF00F#16 : Word) = 0xF000#16 ||| 0x000F#16 from rfl, BitVec.and_or_distrib_left,
    BitVec.toNat_or, and_F000, hlow, show opOf w * 0x1000 = opOf w <<< 12 by
      rw [Nat.shiftLeft_eq], Nat.shiftLeft_add_eq_or_of_lt hlt]

end Sys2Proof
end

