-- ==== Sys2Proof/Laws/Framebuffer.lean ====
section
/-! SUPPORT. The framebuffer read by cell index (45_display.md R150) and what the sprite engine's loop does to it (R151). -/

namespace Sys2Proof.Machine

theorem fbRow_val {idx : Nat} (h : idx < Config.fbCells) : (fbRow idx).val = idx / 64 := by
  simp only [fbRow, Fin.ofNat, Config.fbWidth, Config.fbCells] at *
  omega

@[simp] theorem Framebuffer.cell_blank (idx : Nat) : Framebuffer.blank.cell idx = false := by
  simp [Framebuffer.cell, Framebuffer.blank]

/-- Toggling one cell changes that cell alone. -/
theorem Framebuffer.cell_toggle (fb : Framebuffer) {i j : Nat} (hi : i < Config.fbCells)
    (hj : j < Config.fbCells) : (fb.toggle i).cell j = (fb.cell j != decide (i = j)) := by
  simp only [Framebuffer.cell, Framebuffer.toggle, Fin.getElem_fin, Vector.getElem_set]
  have hcol : fbCol j < 64 := Nat.mod_lt _ (by decide)
  by_cases hr : (fbRow i).val = (fbRow j).val
  · rw [if_pos hr]
    have hr' : fbRow i = fbRow j := Fin.ext hr
    by_cases hc : fbCol i = fbCol j
    · have : i = j := by
        rw [fbRow_val hi, fbRow_val hj] at hr
        simp only [fbCol, Config.fbWidth] at hc
        omega
      subst this
      simp [hcol]
    · have : i ≠ j := fun e => hc (by rw [e])
      simp [BitVec.getLsbD_twoPow, this, hr', hc]
  · rw [if_neg hr]
    have : i ≠ j := fun e => hr (by rw [e])
    simp [this]

/-- A framebuffer is its 2048 cells. -/
theorem Framebuffer.ext_cells {f g : Framebuffer}
    (h : ∀ idx < Config.fbCells, f.cell idx = g.cell idx) : f = g := by
  apply Vector.ext
  intro r hr
  apply BitVec.eq_of_getLsbD_eq
  intro c hc
  have hlt : r * 64 + c < Config.fbCells := by simp only [Config.fbCells]; omega
  have hrow : fbRow (r * 64 + c) = ⟨r, hr⟩ := Fin.ext (by rw [fbRow_val hlt]; simp; omega)
  have hcol : fbCol (r * 64 + c) = c := by simp only [fbCol, Config.fbWidth]; omega
  simpa [Framebuffer.cell, hrow, hcol] using h _ hlt

/-- The loop over a list of distinct cells: every lit entry toggles its cell once, and the flag
records an entry lit in the list and in the framebuffer the loop began with. -/
theorem foldl_drawCell : ∀ (cells : List (Nat × Bool)) (fb : Framebuffer) (c : Bool),
    (cells.map Prod.fst).Nodup → (∀ e ∈ cells, e.1 < Config.fbCells) →
      (∀ j < Config.fbCells, (cells.foldl drawCell (fb, c)).1.cell j =
        (fb.cell j != decide ((j, true) ∈ cells))) ∧
      (cells.foldl drawCell (fb, c)).2 = (c || cells.any fun e => e.2 && fb.cell e.1)
  | [], fb, c, _, _ => by simp
  | (i, b) :: cells, fb, c, hnd, hlt => by
    have hi : i < Config.fbCells := hlt (i, b) (by simp)
    have hnot : ∀ v, (i, v) ∉ cells := fun v hv =>
      (List.nodup_cons.1 hnd).1 (List.mem_map.2 ⟨(i, v), hv, rfl⟩)
    have hlt' : ∀ e ∈ cells, e.1 < Config.fbCells := fun e he => hlt e (List.mem_cons_of_mem _ he)
    cases b with
    | false =>
      have ih := foldl_drawCell cells fb c (List.nodup_cons.1 hnd).2 hlt'
      simpa [drawCell] using ih
    | true =>
      have ih := foldl_drawCell cells (fb.toggle i) (c || fb.cell i) (List.nodup_cons.1 hnd).2 hlt'
      constructor
      · intro j hj
        rw [List.foldl_cons, show drawCell (fb, c) (i, true) = (fb.toggle i, c || fb.cell i) from rfl,
          ih.1 j hj, Framebuffer.cell_toggle fb hi hj]
        by_cases hij : i = j
        · subst hij
          simp [hnot]
        · simp [hij, Ne.symm hij]
      · rw [List.foldl_cons, show drawCell (fb, c) (i, true) = (fb.toggle i, c || fb.cell i) from rfl,
          ih.2]
        have : (cells.any fun e => e.2 && (fb.toggle i).cell e.1) =
            cells.any fun e => e.2 && fb.cell e.1 := by
          apply Bool.eq_iff_iff.2
          simp only [List.any_eq_true]
          refine exists_congr fun e => and_congr_right fun he => ?_
          have hne : i ≠ e.1 := fun h => hnot e.2 (by rw [h]; exact he)
          rw [Framebuffer.cell_toggle fb hi (hlt' e he)]
          simp [hne]
        simp [this, Bool.or_assoc]

/-! ## The cells of a sprite -/

theorem mem_spriteRow {x0 y0 row : Nat} {byte : Byte} {e : Nat × Bool} :
    e ∈ spriteRow x0 y0 row byte ↔ ∃ col < 8,
      e = (((y0 + row) * 64 + (x0 + col)) % 2048, byte.getLsbD (7 - col)) := by
  simp [spriteRow, Config.fbWidth, Config.fbCells, eq_comm]

theorem mem_spriteCells {x0 y0 : Nat} {e : Nat × Bool} : ∀ {row : Nat} {bs : List Byte},
    e ∈ spriteCells x0 y0 row bs ↔ ∃ k, ∃ h : k < bs.length, ∃ col < 8,
      e = (((y0 + (row + k)) * 64 + (x0 + col)) % 2048, bs[k].getLsbD (7 - col))
  | _, [] => by simp [spriteCells]
  | row, b :: bs => by
    rw [spriteCells, List.mem_append, mem_spriteRow, mem_spriteCells]
    constructor
    · rintro (⟨col, hc, rfl⟩ | ⟨k, hk, col, hc, rfl⟩)
      · exact ⟨0, by simp, col, hc, by simp⟩
      · exact ⟨k + 1, by simpa using hk, col, hc, by simp [Nat.add_assoc, Nat.add_comm 1 k]⟩
    · rintro ⟨k, hk, col, hc, rfl⟩
      cases k with
      | zero => exact .inl ⟨col, hc, by simp⟩
      | succ k =>
        exact .inr ⟨k, by simpa using hk, col, hc, by simp [Nat.add_assoc, Nat.add_comm 1 k]⟩

theorem spriteCells_lt {x0 y0 row : Nat} {bs : List Byte} {e : Nat × Bool}
    (h : e ∈ spriteCells x0 y0 row bs) : e.1 < Config.fbCells := by
  obtain ⟨k, hk, col, hc, rfl⟩ := mem_spriteCells.1 h
  exact Nat.mod_lt _ (by decide)

/-- The cells of one call are pairwise distinct (R151), up to 31 rows. -/
theorem spriteCells_nodup {x0 y0 : Nat} : ∀ {row : Nat} {bs : List Byte}, bs.length ≤ 31 →
    ((spriteCells x0 y0 row bs).map Prod.fst).Nodup
  | _, [], _ => by simp [spriteCells]
  | row, b :: bs, h => by
    have hlen : bs.length ≤ 30 := by rw [List.length_cons] at h; omega
    rw [spriteCells, List.map_append]
    refine List.Nodup.append ?_ (spriteCells_nodup (by omega)) ?_
    · simp only [spriteRow, List.map_map, Config.fbWidth, Config.fbCells]
      refine List.Nodup.map_on ?_ List.nodup_range
      intro c hc d hd hcd
      simp only [List.mem_range] at hc hd
      simp only [Function.comp] at hcd
      omega
    · intro i hi hi'
      obtain ⟨e, he, rfl⟩ := List.mem_map.1 hi
      obtain ⟨f, hf, hfe⟩ := List.mem_map.1 hi'
      obtain ⟨col, hc, rfl⟩ := mem_spriteRow.1 he
      obtain ⟨k, hk, col', hc', rfl⟩ := mem_spriteCells.1 hf
      simp only at hfe
      omega

end Sys2Proof.Machine
end

