-- ==== Sys2Proof/Laws/Memory.lean ====
section
/-! SUPPORT. The laws of memory: read after write, frames, and the canonical form (20_memory.md R43, R44, R48). -/

namespace Sys2Proof.Machine

/-! ## The canonical form -/

theorem Memory.wfFrom_cons {lo a : Nat} {b : Byte} {m : Memory} :
    Memory.wfFrom lo ((a, b) :: m) = true ↔
      lo ≤ a ∧ a < Config.memSize ∧ b ≠ Memory.unlisted a ∧ Memory.wfFrom (a + 1) m = true := by
  simp [Memory.wfFrom, and_assoc]

theorem Memory.wfFrom_mono {lo lo' : Nat} (h : lo ≤ lo') :
    ∀ {m : Memory}, Memory.wfFrom lo' m = true → Memory.wfFrom lo m = true
  | [], _ => rfl
  | (a, b) :: m, hm => by
    rw [Memory.wfFrom_cons] at hm ⊢
    exact ⟨h.trans hm.1, hm.2⟩

/-- Below the first listed address everything is unlisted. -/
theorem Memory.get_of_lt {a : Nat} : ∀ {lo : Nat} {m : Memory},
    Memory.wfFrom lo m = true → a < lo → Memory.get m a = Memory.unlisted a
  | _, [], _, _ => rfl
  | lo, (a', b) :: m, hm, h => by
    rw [Memory.wfFrom_cons] at hm
    have hne : a ≠ a' := by omega
    simp only [Memory.get, hne, if_false]
    exact Memory.get_of_lt hm.2.2.2 (by omega)

theorem Memory.get_entry (a c : Nat) (b : Byte) :
    Memory.get (Memory.entry a b) c = if c = a then b else Memory.unlisted c := by
  unfold Memory.entry
  by_cases hb : b = Memory.unlisted a
  · by_cases hc : c = a <;> simp [hb, hc, Memory.get]
  · simp [hb, Memory.get]

theorem Memory.wfFrom_entry_append {lo a : Nat} {b : Byte} {m : Memory} (hlo : lo ≤ a)
    (ha : a < Config.memSize) (hm : Memory.wfFrom (a + 1) m = true) :
    Memory.wfFrom lo (Memory.entry a b ++ m) = true := by
  unfold Memory.entry
  by_cases hb : b = Memory.unlisted a
  · simpa [hb] using Memory.wfFrom_mono (by omega) hm
  · simp only [hb, if_false, List.cons_append, List.nil_append]
    exact Memory.wfFrom_cons.2 ⟨hlo, ha, hb, hm⟩

theorem Memory.get_entry_append {a c : Nat} {b : Byte} {m : Memory}
    (hm : Memory.wfFrom (a + 1) m = true) :
    Memory.get (Memory.entry a b ++ m) c = if c = a then b else Memory.get m c := by
  unfold Memory.entry
  by_cases hb : b = Memory.unlisted a
  · by_cases hc : c = a
    · subst hc
      simpa [hb] using Memory.get_of_lt hm (Nat.lt_succ_self c)
    · simp [hb, hc]
  · simp [hb, Memory.get]

theorem Memory.put_wfFrom {a : Nat} (ha : a < Config.memSize) (b : Byte) : ∀ {lo : Nat} {m : Memory},
    lo ≤ a → Memory.wfFrom lo m = true → Memory.wfFrom lo (Memory.put m a b) = true
  | lo, [], hlo, _ => by
    simpa [Memory.put] using
      Memory.wfFrom_entry_append (b := b) (m := []) hlo ha (by simp [Memory.wfFrom])
  | lo, (a', b') :: m, hlo, hm => by
    have hm' := Memory.wfFrom_cons.1 hm
    unfold Memory.put
    by_cases h1 : a < a'
    · simp only [h1, if_true]
      exact Memory.wfFrom_entry_append hlo ha (Memory.wfFrom_cons.2 ⟨h1, hm'.2⟩)
    · by_cases h2 : a = a'
      · subst h2
        simp only [lt_self_iff_false, if_true, if_false]
        exact Memory.wfFrom_entry_append hlo ha hm'.2.2.2
      · simp only [h1, h2, if_false]
        exact Memory.wfFrom_cons.2
          ⟨hm'.1, hm'.2.1, hm'.2.2.1, Memory.put_wfFrom ha b (by omega) hm'.2.2.2⟩

/-- A single write keeps the canonical form. -/
theorem Memory.put_wf {m : Memory} {a : Nat} (ha : a < Config.memSize) (b : Byte)
    (hm : m.wf = true) : (m.put a b).wf = true :=
  Memory.put_wfFrom ha b (Nat.zero_le a) hm

/-! ## Read after write -/

theorem Memory.get_putFrom {a c : Nat} {b : Byte} : ∀ {lo : Nat} {m : Memory},
    lo ≤ a → Memory.wfFrom lo m = true →
      Memory.get (Memory.put m a b) c = if c = a then b else Memory.get m c
  | _, [], _, _ => by simp [Memory.put, Memory.get_entry, Memory.get]
  | lo, (a', b') :: m, hlo, hm => by
    have hm' := Memory.wfFrom_cons.1 hm
    unfold Memory.put
    by_cases h1 : a < a'
    · simp only [h1, if_true]
      exact Memory.get_entry_append (Memory.wfFrom_cons.2 ⟨h1, hm'.2⟩)
    · by_cases h2 : a = a'
      · subst h2
        simp only [lt_self_iff_false, if_true, if_false]
        rw [Memory.get_entry_append hm'.2.2.2]
        by_cases hc : c = a <;> simp [hc, Memory.get]
      · simp only [h1, h2, if_false, Memory.get]
        by_cases hc : c = a'
        · have : c ≠ a := fun e => h2 (e.symm.trans hc)
          subst hc
          simp [this]
        · simp only [hc, if_false]
          exact Memory.get_putFrom (by omega) hm'.2.2.2

theorem Memory.get_put {m : Memory} (hm : m.wf = true) (a c : Nat) (b : Byte) :
    (m.put a b).get c = if c = a then b else m.get c :=
  Memory.get_putFrom (Nat.zero_le a) hm

theorem Memory.mod_memSize_lt (a : Nat) : a % Config.memSize < Config.memSize :=
  Nat.mod_lt a (by decide)

/-- `MemWrite` keeps the canonical form. -/
theorem Memory.write_wf {m : Memory} (hm : m.wf = true) (a : Nat) (b : Byte) :
    (m.write a b).wf = true :=
  Memory.put_wf (Memory.mod_memSize_lt a) b hm

/-- `MemRead` after `MemWrite` (R43, R44). -/
theorem Memory.read_write {m : Memory} (hm : m.wf = true) (a c : Nat) (b : Byte) :
    (m.write a b).read c = if c % Config.memSize = a % Config.memSize then b else m.read c :=
  Memory.get_put hm _ _ b

/-- Every store keeps the canonical form. -/
theorem Memory.store_wf : ∀ {m : Memory} (base : Nat) (bs : List Byte),
    m.wf = true → (m.store base bs).wf = true
  | _, _, [], hm => hm
  | _, base, b :: bs, hm => Memory.store_wf (base + 1) bs (Memory.write_wf hm base b)

/-- A store leaves every byte outside its range alone. -/
theorem Memory.read_store_outside {c : Nat} : ∀ {m : Memory} {base : Nat} {bs : List Byte},
    m.wf = true → (∀ k < bs.length, c % Config.memSize ≠ (base + k) % Config.memSize) →
      (m.store base bs).read c = m.read c
  | _, _, [], _, _ => rfl
  | m, base, b :: bs, hm, h => by
    have h0 := h 0 (by simp)
    rw [Memory.store, Memory.read_store_outside (Memory.write_wf hm base b), Memory.read_write hm]
    · simp only [Nat.add_zero] at h0
      simp [h0]
    · intro k hk
      have := h (k + 1) (by simpa using hk)
      simpa [Nat.add_assoc, Nat.add_comm 1 k] using this

/-- A store of at most 4096 bytes leaves byte `k` of its list at `base + k` (R48). -/
theorem Memory.read_store_inside : ∀ {m : Memory} {base : Nat} {bs : List Byte} {k : Nat}
    (hk : k < bs.length), m.wf = true → bs.length ≤ Config.memSize →
      (m.store base bs).read (base + k) = bs[k]
  | _, _, [], k, hk, _, _ => by simp at hk
  | m, base, b :: bs, 0, _, hm, hlen => by
    have hlen' : bs.length + 1 ≤ Config.memSize := by simpa using hlen
    rw [Memory.store, Memory.read_store_outside (Memory.write_wf hm base b), Memory.read_write hm]
    · simp
    · intro j hj
      simp only [Config.memSize] at hlen' ⊢
      omega
  | m, base, b :: bs, k + 1, hk, hm, hlen => by
    have hk' : k < bs.length := by simpa using hk
    have hlen' : bs.length ≤ Config.memSize := by
      have : bs.length + 1 ≤ Config.memSize := by simpa using hlen
      omega
    have := Memory.read_store_inside (m := m.write base b) (base := base + 1) hk'
      (Memory.write_wf hm base b) hlen'
    rw [Memory.store, show base + (k + 1) = base + 1 + k by omega, this]
    rfl

/-- The bytes a load gives (R48). -/
theorem Memory.getElem_load {m : Memory} {base n k : Nat} (hk : k < (m.load base n).length) :
    (m.load base n)[k] = m.read (base + k) := by
  simp [Memory.load]

@[simp] theorem Memory.length_load (m : Memory) (base n : Nat) : (m.load base n).length = n := by
  simp [Memory.load]

end Sys2Proof.Machine
end

