-- ==== Sys2Proof/Laws/Load.lean ====
section
/-! SUPPORT. What reset with a program gives (70_reset_and_hazards.md R200, R201). -/

namespace Sys2Proof.Machine

theorem fontTable_length : fontTable.length = 80 := rfl

/-- Memory filled with MEM_FILL, before the font and the program. -/
def filledMemory (fill : Nat → Byte) : Memory :=
  Memory.store [] 0 ((List.range Config.memSize).map fill)

theorem bootMemory_eq (fill : Nat → Byte) (program : List Byte) :
    bootMemory fill program = ((filledMemory fill).store 0 fontTable).store 0x200 program := rfl

theorem filledMemory_wf (fill : Nat → Byte) : (filledMemory fill).wf = true :=
  Memory.store_wf _ _ rfl

theorem filledMemory_read (fill : Nat → Byte) {a : Nat} (ha : a < 4096) :
    (filledMemory fill).read a = fill a := by
  have h := Memory.read_store_inside (m := []) (base := 0)
    (bs := (List.range Config.memSize).map fill) (k := a) (by simpa [Config.memSize] using ha) rfl
    (by simp [Config.memSize])
  rw [Nat.zero_add] at h
  rw [filledMemory, h]
  simp

/-- Reset memory is canonical, whatever the fill and the program. -/
theorem bootMemory_wf (fill : Nat → Byte) (program : List Byte) :
    (bootMemory fill program).wf = true := by
  rw [bootMemory_eq]
  exact Memory.store_wf _ _ (Memory.store_wf _ _ (filledMemory_wf fill))

/-- The program's bytes stand at 0x200 on. -/
theorem bootMemory_program (fill : Nat → Byte) {program : List Byte}
    (hp : program.length ≤ 3584) {k : Nat} (hk : k < program.length) :
    (bootMemory fill program).read (0x200 + k) = program[k] := by
  rw [bootMemory_eq]
  exact Memory.read_store_inside hk (Memory.store_wf _ _ (filledMemory_wf fill))
    (by simp only [Config.memSize]; omega)

/-- A byte outside the program is the font's or MEM_FILL's. -/
theorem bootMemory_outside (fill : Nat → Byte) {program : List Byte}
    (hp : program.length ≤ 3584) {a : Nat} (ha : a < 4096)
    (hout : a < 0x200 ∨ 0x200 + program.length ≤ a) :
    (bootMemory fill program).read a = ((filledMemory fill).store 0 fontTable).read a := by
  rw [bootMemory_eq, Memory.read_store_outside (Memory.store_wf _ _ (filledMemory_wf fill))]
  intro k hk
  simp only [Config.memSize]
  omega

/-- The font stands at 0 to 79. -/
theorem bootMemory_font (fill : Nat → Byte) {program : List Byte} (hp : program.length ≤ 3584)
    {a : Nat} (ha : a < fontTable.length) :
    (bootMemory fill program).read a = fontTable[a] := by
  have h80 : a < 80 := fontTable_length ▸ ha
  rw [bootMemory_outside fill hp (by omega) (.inl (by omega))]
  have h := Memory.read_store_inside (m := filledMemory fill) (base := 0) ha (filledMemory_wf fill)
    (by rw [fontTable_length]; decide)
  rwa [Nat.zero_add] at h

/-- The five bytes from an address of the font on are the font's. -/
theorem bootMemory_glyph (fill : Nat → Byte) {program : List Byte} (hp : program.length ≤ 3584)
    {base : Nat} (hb : base + 5 ≤ 80) :
    (bootMemory fill program).load base 5 = (fontTable.drop base).take 5 := by
  apply List.ext_getElem
  · simp [fontTable_length]
    omega
  · intro k hk _
    have h5 : k < 5 := by simpa using hk
    rw [Memory.getElem_load, bootMemory_font fill hp (by rw [fontTable_length]; omega)]
    simp

/-- Every other byte is MEM_FILL's. -/
theorem bootMemory_fill (fill : Nat → Byte) {program : List Byte} (hp : program.length ≤ 3584)
    {a : Nat} (h80 : 80 ≤ a) (ha : a < 4096)
    (hout : a < 0x200 ∨ 0x200 + program.length ≤ a) :
    (bootMemory fill program).read a = fill a := by
  rw [bootMemory_outside fill hp ha hout,
    Memory.read_store_outside (filledMemory_wf fill), filledMemory_read fill ha]
  intro k hk
  rw [fontTable_length] at hk
  simp only [Config.memSize]
  omega

theorem boot_ok (fill : Nat → Byte) {program : List Byte} (now0 : Nat)
    (hp : program.length ≤ 3584) :
    boot fill program now0 = .ok { State.reset with
      mem := bootMemory fill program
      DT := ⟨0, now0⟩
      ST := ⟨0, now0⟩
      now := now0 } := by
  exact if_pos hp

theorem boot_error (fill : Nat → Byte) {program : List Byte} (now0 : Nat)
    (hp : 3584 < program.length) :
    boot fill program now0 = .error .programTooLarge := by
  exact if_neg (show ¬ program.length ≤ 4096 - 0x200 by omega)

end Sys2Proof.Machine
end

