-- ==== Sys2Proof/Laws/PerInstr.lean ====
section
/-! SUPPORT. Statements made for every instruction, one lemma per constructor: the canonical word of an instruction lies in its row of the decode table (30_encoding.md R64). -/

namespace Sys2Proof.Laws.EncodeRow

/-- The fixed bits of the encoded word are those of the instruction's row. -/
def Statement (i : Instr) : Prop :=
  i.wellFormed = true → encode i &&& (rowOf i).2 = (rowOf i).1

theorem of_F000 {w : Word} {op : Nat} (h : opOf w = op) :
    w &&& 0xF000#16 = BitVec.ofNat 16 (op * 0x1000) := by
  apply BitVec.eq_of_toNat_eq
  have hop : op < 16 := h ▸ Nat.mod_lt _ (by decide)
  rw [and_F000, h, BitVec.toNat_ofNat]
  omega

theorem of_F00F {w : Word} {op n : Nat} (h : opOf w = op) (hn : nOf w = n) :
    w &&& 0xF00F#16 = BitVec.ofNat 16 (op * 0x1000 + n) := by
  apply BitVec.eq_of_toNat_eq
  have hop : op < 16 := h ▸ Nat.mod_lt _ (by decide)
  have hn' : n < 16 := hn ▸ Nat.mod_lt _ (by decide)
  rw [and_F00F, h, hn, BitVec.toNat_ofNat]
  omega

theorem of_F0FF {w : Word} {op sub : Nat} (h : opOf w = op) (hs : bitField w 0 8 = sub) :
    w &&& 0xF0FF#16 = BitVec.ofNat 16 (op * 0x1000 + sub) := by
  apply BitVec.eq_of_toNat_eq
  have hop : op < 16 := h ▸ Nat.mod_lt _ (by decide)
  have hs' : sub < 256 := hs ▸ Nat.mod_lt _ (by decide)
  rw [and_F0FF, h, hs, BitVec.toNat_ofNat]
  omega

theorem cls : Statement .cls := fun _ => rfl

theorem ret : Statement .ret := fun _ => rfl

theorem jp (nnn : Addr12) : Statement (.jp nnn) := fun _ => of_F000 (opOf_encNNN (by decide) nnn)

theorem call (nnn : Addr12) : Statement (.call nnn) := fun _ => of_F000 (opOf_encNNN (by decide) nnn)

theorem seImm (x : Reg) (kk : Byte) : Statement (.seImm x kk) := fun _ => of_F000 (opOf_encXKK (by decide) x kk)

theorem sneImm (x : Reg) (kk : Byte) : Statement (.sneImm x kk) := fun _ => of_F000 (opOf_encXKK (by decide) x kk)

theorem seReg (x y : Reg) : Statement (.seReg x y) := fun _ => of_F000 (opOf_encXYN (by decide) x y (by decide))

theorem ldImm (x : Reg) (kk : Byte) : Statement (.ldImm x kk) := fun _ => of_F000 (opOf_encXKK (by decide) x kk)

theorem addImm (x : Reg) (kk : Byte) : Statement (.addImm x kk) := fun _ => of_F000 (opOf_encXKK (by decide) x kk)

theorem ldReg (x y : Reg) : Statement (.ldReg x y) := fun _ =>
    of_F00F (opOf_encXYN (by decide) x y (by decide)) (nOf_encXYN (by decide) x y (by decide))

theorem orReg (x y : Reg) : Statement (.orReg x y) := fun _ =>
    of_F00F (opOf_encXYN (by decide) x y (by decide)) (nOf_encXYN (by decide) x y (by decide))

theorem andReg (x y : Reg) : Statement (.andReg x y) := fun _ =>
    of_F00F (opOf_encXYN (by decide) x y (by decide)) (nOf_encXYN (by decide) x y (by decide))

theorem xorReg (x y : Reg) : Statement (.xorReg x y) := fun _ =>
    of_F00F (opOf_encXYN (by decide) x y (by decide)) (nOf_encXYN (by decide) x y (by decide))

theorem addReg (x y : Reg) : Statement (.addReg x y) := fun _ =>
    of_F00F (opOf_encXYN (by decide) x y (by decide)) (nOf_encXYN (by decide) x y (by decide))

theorem subReg (x y : Reg) : Statement (.subReg x y) := fun _ =>
    of_F00F (opOf_encXYN (by decide) x y (by decide)) (nOf_encXYN (by decide) x y (by decide))

theorem shr (x y : Reg) : Statement (.shr x y) := fun _ =>
    of_F00F (opOf_encXYN (by decide) x y (by decide)) (nOf_encXYN (by decide) x y (by decide))

theorem subnReg (x y : Reg) : Statement (.subnReg x y) := fun _ =>
    of_F00F (opOf_encXYN (by decide) x y (by decide)) (nOf_encXYN (by decide) x y (by decide))

theorem shl (x y : Reg) : Statement (.shl x y) := fun _ =>
    of_F00F (opOf_encXYN (by decide) x y (by decide)) (nOf_encXYN (by decide) x y (by decide))

theorem sneReg (x y : Reg) : Statement (.sneReg x y) := fun _ => of_F000 (opOf_encXYN (by decide) x y (by decide))

theorem ldI (nnn : Addr12) : Statement (.ldI nnn) := fun _ => of_F000 (opOf_encNNN (by decide) nnn)

theorem jpV0 (nnn : Addr12) : Statement (.jpV0 nnn) := fun _ => of_F000 (opOf_encNNN (by decide) nnn)

theorem rnd (x : Reg) (kk : Byte) : Statement (.rnd x kk) := fun _ => of_F000 (opOf_encXKK (by decide) x kk)

theorem drw (x y : Reg) (n : Nat) : Statement (.drw x y n) := fun h => of_F000 (opOf_encXYN (by decide) x y (of_decide_eq_true h))

theorem skp (x : Reg) : Statement (.skp x) := fun _ =>
    of_F0FF (opOf_encXS (by decide) x (by decide)) (bitField_encXS (by decide) x (by decide))

theorem sknp (x : Reg) : Statement (.sknp x) := fun _ =>
    of_F0FF (opOf_encXS (by decide) x (by decide)) (bitField_encXS (by decide) x (by decide))

theorem ldVxDT (x : Reg) : Statement (.ldVxDT x) := fun _ =>
    of_F0FF (opOf_encXS (by decide) x (by decide)) (bitField_encXS (by decide) x (by decide))

theorem ldVxK (x : Reg) : Statement (.ldVxK x) := fun _ =>
    of_F0FF (opOf_encXS (by decide) x (by decide)) (bitField_encXS (by decide) x (by decide))

theorem ldDTVx (x : Reg) : Statement (.ldDTVx x) := fun _ =>
    of_F0FF (opOf_encXS (by decide) x (by decide)) (bitField_encXS (by decide) x (by decide))

theorem ldSTVx (x : Reg) : Statement (.ldSTVx x) := fun _ =>
    of_F0FF (opOf_encXS (by decide) x (by decide)) (bitField_encXS (by decide) x (by decide))

theorem addI (x : Reg) : Statement (.addI x) := fun _ =>
    of_F0FF (opOf_encXS (by decide) x (by decide)) (bitField_encXS (by decide) x (by decide))

theorem ldF (x : Reg) : Statement (.ldF x) := fun _ =>
    of_F0FF (opOf_encXS (by decide) x (by decide)) (bitField_encXS (by decide) x (by decide))

theorem ldB (x : Reg) : Statement (.ldB x) := fun _ =>
    of_F0FF (opOf_encXS (by decide) x (by decide)) (bitField_encXS (by decide) x (by decide))

theorem storeRegs (x : Reg) : Statement (.storeRegs x) := fun _ =>
    of_F0FF (opOf_encXS (by decide) x (by decide)) (bitField_encXS (by decide) x (by decide))

theorem loadRegs (x : Reg) : Statement (.loadRegs x) := fun _ =>
    of_F0FF (opOf_encXS (by decide) x (by decide)) (bitField_encXS (by decide) x (by decide))

end Sys2Proof.Laws.EncodeRow
end

