-- ==== Sys2Proof/Laws/Registers.lean ====
section
/-! SUPPORT. Reading a register after each update that writes one (10_state.md R10, R11; 42_alu.md R111). -/

namespace Sys2Proof.Machine

variable (s : State)

theorem State.reg_setReg (r q : Reg) (b : Byte) :
    (s.setReg r b).reg q = if q = r then b else s.reg q := by
  simp only [State.reg, State.setReg, Fin.getElem_fin, Vector.getElem_set]
  by_cases h : q = r
  · simp [h]
  · have : ¬ r.val = q.val := fun e => h (Fin.ext e.symm)
    simp [h, this]

@[simp] theorem State.reg_setReg_self (r : Reg) (b : Byte) : (s.setReg r b).reg r = b := by
  simp [State.reg_setReg]

theorem State.reg_setReg_ne {r q : Reg} (h : q ≠ r) (b : Byte) :
    (s.setReg r b).reg q = s.reg q := by
  simp [State.reg_setReg, h]

theorem State.reg_setFlag (q : Reg) (b : Byte) :
    (s.setFlag b).reg q = if q = Config.flagReg then b else s.reg q :=
  s.reg_setReg Config.flagReg q b

theorem State.reg_writeReg (r q : Reg) (b : Byte) :
    (s.writeReg r b).reg q = if q = r then b else s.reg q :=
  s.reg_setReg r q b

/-- The flag wins when the destination is `VF` (R111). -/
theorem State.reg_writeRegFlag (r q : Reg) (b f : Byte) :
    (s.writeRegFlag r b f).reg q =
      if q = Config.flagReg then f else if q = r then b else s.reg q := by
  rw [State.writeRegFlag, State.advance_reg, State.reg_setFlag, State.reg_setReg]

theorem State.reg_loadRegsFrom (a : Nat) (x q : Reg) :
    (s.loadRegsFrom a x).reg q = if q ≤ x then s.mem.read (a + q.val) else s.reg q := by
  simp [State.reg, State.loadRegsFrom]

/-- Two states with the same registers, read one by one, hold the same register file. -/
theorem State.V_ext {t : State} (h : ∀ q, s.reg q = t.reg q) : s.V = t.V := by
  apply Vector.ext
  intro k hk
  simpa [State.reg] using h ⟨k, hk⟩

end Sys2Proof.Machine
end

