-- ==== Sys2Proof/Tests/Slice0.lean ====
section
/-! SUPPORT. Tests: the spec's vectors (95_test_vectors.md, by their ids), words written out from the decode table, and a witness for the hypotheses of every obligation. -/

namespace Sys2Proof.Tests

open Sys2Proof.Machine

/-! ## Helpers -/

/-- A next state that satisfies `p`. -/
def after (o : Result) (p : State → Bool) : Bool :=
  match o with
  | .next t => p t
  | _ => false

/-- The reset state with the listed registers. -/
def regs (l : List (Reg × Byte)) : State := l.foldl (fun s p => s.setReg p.1 p.2) State.reset

/-- One executor invocation with the two bytes at the pc. -/
def run (b0 b1 : Byte) (s : State) : Result :=
  invoke { s with mem := s.mem.store s.pc.toNat [b0, b1] }

/-- The framebuffer with the listed cells lit. -/
def lit (cells : List Nat) : Framebuffer := cells.foldl Framebuffer.toggle Framebuffer.blank

/-- The reset state with a stack of `n` entries. -/
def stacked (n : Nat) : State := { State.reset with stack := List.replicate n 0x0200 }

/-- The reset state with a key read waiting on key `k`, or on none. -/
def waiting (k : Option Key) : State := { State.reset with kstate := .waiting, latch := k }

/-- The reset state with `b0 b1` at 0x200 and one cycle input with these events. -/
def cycle (b0 b1 : Byte) (es : List Event) : State :=
  { State.reset with mem := Memory.store [] 0x200 [b0, b1], pending := [⟨0, es⟩] }

/-! ## WellFormed -/

theorem test_wellFormed_rejects_drw_16_rows : (Instr.drw 0 0 16).wellFormed = false := by decide
theorem test_wellFormed_accepts_drw_15_rows : (Instr.drw 0 0 15).wellFormed = true := by decide

/-! ## Decoding: each row's word written out from 30_encoding.md R61, R64 -/

theorem test_decode_cls : decode [0x00, 0xE0] = .ok (.cls, []) := by decide
theorem test_decode_ret : decode [0x00, 0xEE] = .ok (.ret, []) := by decide
theorem test_decode_jp : decode [0x1A, 0xBC] = .ok (.jp 0xABC, []) := by decide
theorem test_decode_call : decode [0x2F, 0x01] = .ok (.call 0xF01, []) := by decide
theorem test_decode_seImm : decode [0x3A, 0x7F] = .ok (.seImm 10 0x7F, []) := by decide
theorem test_decode_sneImm : decode [0x4B, 0x80] = .ok (.sneImm 11 0x80, []) := by decide
theorem test_decode_seReg : decode [0x51, 0x20] = .ok (.seReg 1 2, []) := by decide
theorem test_decode_ldImm : decode [0x60, 0x05] = .ok (.ldImm 0 0x05, []) := by decide
theorem test_decode_addImm : decode [0x71, 0xFF] = .ok (.addImm 1 0xFF, []) := by decide
theorem test_decode_ldReg : decode [0x83, 0xF0] = .ok (.ldReg 3 15, []) := by decide
theorem test_decode_orReg : decode [0x83, 0xF1] = .ok (.orReg 3 15, []) := by decide
theorem test_decode_andReg : decode [0x83, 0xF2] = .ok (.andReg 3 15, []) := by decide
theorem test_decode_xorReg : decode [0x83, 0xF3] = .ok (.xorReg 3 15, []) := by decide
theorem test_decode_addReg : decode [0x80, 0x14] = .ok (.addReg 0 1, []) := by decide
theorem test_decode_subReg : decode [0x83, 0xF5] = .ok (.subReg 3 15, []) := by decide
theorem test_decode_shr : decode [0x83, 0xF6] = .ok (.shr 3 15, []) := by decide
theorem test_decode_subnReg : decode [0x83, 0xF7] = .ok (.subnReg 3 15, []) := by decide
theorem test_decode_shl : decode [0x83, 0xFE] = .ok (.shl 3 15, []) := by decide
theorem test_decode_sneReg : decode [0x91, 0x20] = .ok (.sneReg 1 2, []) := by decide
theorem test_decode_ldI : decode [0xA2, 0xF0] = .ok (.ldI 0x2F0, []) := by decide
theorem test_decode_jpV0 : decode [0xB2, 0x10] = .ok (.jpV0 0x210, []) := by decide
theorem test_decode_rnd : decode [0xC3, 0x0F] = .ok (.rnd 3 0x0F, []) := by decide
theorem test_decode_drw : decode [0xD1, 0x25] = .ok (.drw 1 2 5, []) := by decide
theorem test_decode_skp : decode [0xE1, 0x9E] = .ok (.skp 1, []) := by decide
theorem test_decode_sknp : decode [0xE1, 0xA1] = .ok (.sknp 1, []) := by decide
theorem test_decode_ldVxDT : decode [0xF4, 0x07] = .ok (.ldVxDT 4, []) := by decide
theorem test_decode_ldVxK : decode [0xF3, 0x0A] = .ok (.ldVxK 3, []) := by decide
theorem test_decode_ldDTVx : decode [0xF2, 0x15] = .ok (.ldDTVx 2, []) := by decide
theorem test_decode_ldSTVx : decode [0xF2, 0x18] = .ok (.ldSTVx 2, []) := by decide
theorem test_decode_addI : decode [0xF1, 0x1E] = .ok (.addI 1, []) := by decide
theorem test_decode_ldF : decode [0xF2, 0x29] = .ok (.ldF 2, []) := by decide
theorem test_decode_ldB : decode [0xFA, 0x33] = .ok (.ldB 10, []) := by decide
theorem test_decode_storeRegs : decode [0xF2, 0x55] = .ok (.storeRegs 2, []) := by decide
theorem test_decode_loadRegs : decode [0xF2, 0x65] = .ok (.loadRegs 2, []) := by decide

/-- The bytes after the instruction are left. -/
theorem test_decode_leaves_the_rest :
    decode [0x60, 0x05, 0x61] = .ok (.ldImm 0 0x05, [0x61]) := by decide
theorem test_decode_rejects_truncated : decode [0x60] = .error .truncated := by decide
/-- R65: ignored nibbles. -/
theorem test_decode_ignored_nibbles :
    decodeWord? 0x0AEE = some .ret ∧ decodeWord? 0x51E3 = some (.seReg 1 14) := by decide
/-- R66: words outside the table. -/
theorem test_decode_rejects_unknown :
    decode [0x80, 0x18] = .error (.unknownOpcode 0x80 0x18) ∧
    decode [0xE0, 0x9F] = .error (.unknownOpcode 0xE0 0x9F) ∧
    decode [0xF0, 0x90] = .error (.unknownOpcode 0xF0 0x90) ∧
    decode [0x00, 0x00] = .error (.unknownOpcode 0x00 0x00) := by decide
theorem test_decodeTableWord : decodeTableWord 16 0xD125 = some (.drw 1 2 5) := by decide
theorem test_decodeTableWord_unknown : decodeTableWord 16 0x8008 = none := by decide
/-- Reset and one placed word: the step runs it. -/
theorem test_withFetchWord_runs :
    after (step (State.reset.withFetchWord 16 0x6005)) (fun t => t.reg 0 == 5 && t.pc == 0x202)
      = true := by decide

/-! ## Control transfer -/

/-- F1. -/
theorem test_jp : after (run 0x12 0x08 State.reset) (fun t => t.pc == 0x208) = true := by decide
/-- F4. -/
theorem test_call :
    after (run 0x22 0x10 { State.reset with pc := 0x204 })
      (fun t => t.stack == [0x0204] && t.pc == 0x210) = true := by decide
/-- F6. -/
theorem test_call_overflow :
    after (run 0x22 0x10 (stacked 16))
      (fun t => t.fault == some ⟨.stackOverflow, 0x200⟩ && t.pc == 0x200 && t.stack.length == 16)
      = true := by decide
/-- F11 (and F5): the popped address plus 2. -/
theorem test_ret :
    after (run 0x0A 0xEE { State.reset with stack := [0x0100, 0x0300] })
      (fun t => t.stack == [0x0100] && t.pc == 0x302) = true := by decide
/-- F7. -/
theorem test_ret_underflow :
    after (run 0x00 0xEE State.reset)
      (fun t => t.fault == some ⟨.stackUnderflow, 0x200⟩ && t.pc == 0x200) = true := by decide
/-- F9: the pc is not reduced to 12 bits. -/
theorem test_jpV0 : after (run 0xBF 0xFF (regs [(0, 0xFF)])) (fun t => t.pc == 0x10FE) = true := by
  decide
/-- F10: a fetch at 0x1000 reads address 0, the unknown word `F0 90`. -/
theorem test_fetch_wraps_to_the_font :
    after (invoke { State.reset with pc := 0x1000 })
      (fun t => t.emitted == [.unknownOpcode 0xF0 0x90] && t.pc == 0x1002) = true := by decide

/-! ## Skips -/

/-- K1. -/
theorem test_seImm_taken : after (run 0x33 0x2A (regs [(3, 0x2A)])) (·.pc == 0x204) = true := by
  decide
/-- K2. -/
theorem test_seImm_not : after (run 0x33 0x2B (regs [(3, 0x2A)])) (·.pc == 0x202) = true := by
  decide
/-- K3. -/
theorem test_sneImm_not : after (run 0x43 0x2A (regs [(3, 0x2A)])) (·.pc == 0x202) = true := by
  decide
/-- K4. -/
theorem test_sneImm_taken : after (run 0x43 0x00 (regs [(3, 0x2A)])) (·.pc == 0x204) = true := by
  decide
/-- K5. -/
theorem test_seReg_taken : after (run 0x51 0x20 (regs [(1, 7), (2, 7)])) (·.pc == 0x204) = true := by
  decide
/-- K6. -/
theorem test_seReg_not : after (run 0x51 0x20 (regs [(1, 7), (2, 8)])) (·.pc == 0x202) = true := by
  decide
/-- K7. -/
theorem test_sneReg_taken : after (run 0x91 0x20 (regs [(1, 7), (2, 8)])) (·.pc == 0x204) = true := by
  decide
/-- K8. -/
theorem test_sneReg_not : after (run 0x91 0x20 (regs [(1, 7), (2, 7)])) (·.pc == 0x202) = true := by
  decide

/-! ## Immediate and ALU -/

/-- A1. -/
theorem test_ldImm : after (run 0x6F 0x07 State.reset) (fun t => t.reg 15 == 7) = true := by decide
/-- A2: no flag on wrap-around. -/
theorem test_addImm :
    after (run 0x70 0x01 (regs [(0, 0xFF)])) (fun t => t.reg 0 == 0 && t.reg 15 == 0) = true := by
  decide
/-- A4. -/
theorem test_ldReg : after (run 0x80 0x10 (regs [(1, 0x33)])) (fun t => t.reg 0 == 0x33) = true := by
  decide
/-- A5: `VF` is left. -/
theorem test_orReg :
    after (run 0x80 0x11 (regs [(0, 0xF0), (1, 0x0F), (15, 1)]))
      (fun t => t.reg 0 == 0xFF && t.reg 15 == 1) = true := by decide
/-- A6. -/
theorem test_andReg :
    after (run 0x80 0x12 (regs [(0, 0xF0), (1, 0x3C)])) (fun t => t.reg 0 == 0x30) = true := by
  decide
/-- R105's example. -/
theorem test_xorReg :
    after (run 0x80 0x13 (regs [(0, 0xF0), (1, 0x3C)])) (fun t => t.reg 0 == 0xCC) = true := by
  decide
/-- A8. -/
theorem test_addReg :
    after (run 0x80 0x14 (regs [(0, 0xFF), (1, 0x01)]))
      (fun t => t.reg 0 == 0 && t.reg 15 == 1) = true := by decide
/-- A10: the flag wins over the sum. -/
theorem test_addReg_to_flag :
    after (run 0x8F 0x14 (regs [(15, 0xF0), (1, 0x20)])) (fun t => t.reg 15 == 1) = true := by decide
/-- A13. -/
theorem test_subReg :
    after (run 0x80 0x15 (regs [(0, 3), (1, 5)]))
      (fun t => t.reg 0 == 0xFE && t.reg 15 == 0) = true := by decide
/-- A14: strict. -/
theorem test_subReg_equal :
    after (run 0x80 0x15 (regs [(0, 7), (1, 7)]))
      (fun t => t.reg 0 == 0 && t.reg 15 == 0) = true := by decide
/-- A16. -/
theorem test_subnReg :
    after (run 0x80 0x17 (regs [(0, 3), (1, 5)]))
      (fun t => t.reg 0 == 2 && t.reg 15 == 1) = true := by decide
/-- A18: the equal case. -/
theorem test_subnReg_equal :
    after (run 0x80 0x17 (regs [(0, 7), (1, 7)]))
      (fun t => t.reg 0 == 0 && t.reg 15 == 1) = true := by decide
/-- A20: the operand each quirk selects. -/
theorem test_shift_operand :
    shiftOperandIn .srcVx (regs [(0, 5), (1, 8)]) 0 1 = 5 ∧
    shiftOperandIn .srcVy (regs [(0, 5), (1, 8)]) 0 1 = 8 := by decide

/-- A22: with `x = y` the quirk's choice does not matter. -/
theorem test_shr :
    after (execShr 0 0 (regs [(0, 0xFF)])) (fun t => t.reg 0 == 0x7F && t.reg 15 == 1) = true := by
  have h : shiftOperand (regs [(0, 0xFF)]) 0 0 = 0xFF := by
    unfold shiftOperand
    cases Config.shiftQuirk <;> decide
  simp only [execShr, h]
  decide

/-- A21 for a register shifted onto itself. -/
theorem test_shl :
    after (execShl 0 0 (regs [(0, 0x81)])) (fun t => t.reg 0 == 0x02 && t.reg 15 == 1) = true := by
  have h : shiftOperand (regs [(0, 0x81)]) 0 0 = 0x81 := by
    unfold shiftOperand
    cases Config.shiftQuirk <;> decide
  simp only [execShl, h]
  decide

/-- A26. -/
theorem test_unknown :
    after (run 0x80 0x18 State.reset)
      (fun t => t.emitted == [.unknownOpcode 0x80 0x18] && t.pc == 0x202) = true := by decide

/-! ## Index and memory -/

/-- M1. -/
theorem test_ldI : after (run 0xA2 0xF0 State.reset) (fun t => t.I == 0x02F0) = true := by decide
/-- M4. -/
theorem test_addI :
    after (run 0xF1 0x1E { regs [(1, 1)] with I := 0xFFFF }) (fun t => t.I == 0) = true := by decide
/-- M3: no 12-bit wrap and no flag. -/
theorem test_addI_no_flag :
    after (run 0xF1 0x1E { regs [(1, 1)] with I := 0x0FFF })
      (fun t => t.I == 0x1000 && t.reg 15 == 0) = true := by decide
/-- M7: no nibble mask. -/
theorem test_ldF : after (run 0xF0 0x29 (regs [(0, 0xFF)])) (fun t => t.I == 0x04FB) = true := by
  decide
/-- M8. -/
theorem test_ldB :
    after (run 0xF0 0x33 { regs [(0, 0x9C)] with I := 0x0300 })
      (fun t => t.mem.load 0x300 3 == [1, 5, 6]) = true := by decide
/-- M9: the address wraps and the font is overwritten. -/
theorem test_ldB_wraps :
    after (run 0xF0 0x33 { regs [(0, 0xFF)] with I := 0x0FFE })
      (fun t => t.mem.load 0xFFE 2 == [2, 5] && t.mem.read 0 == 5) = true := by decide
/-- M11. -/
theorem test_storeRegs :
    after (run 0xF2 0x55 { regs [(0, 1), (1, 2), (2, 3), (3, 4)] with I := 0x0400 })
      (fun t => t.mem.load 0x400 4 == [1, 2, 3, 0] && t.I == 0x0400) = true := by decide
/-- M12. -/
theorem test_storeRegs_wraps :
    after (run 0xF0 0x55 { regs [(0, 0xAB)] with I := 0x1000 })
      (fun t => t.mem.read 0 == 0xAB && t.I == 0x1000) = true := by decide
/-- M14: the font is read. -/
theorem test_loadRegs :
    after (run 0xF4 0x65 (regs [(5, 9)]))
      (fun t => t.V.toList.take 6 == [0xF0, 0x90, 0x90, 0x90, 0xF0, 9]) = true := by decide
/-- M15: `VF` is loaded as data. -/
theorem test_loadRegs_all :
    after (run 0xFF 0x65 { State.reset with I := 0x0400, mem := [(0x40F, 1)] })
      (fun t => t.reg 15 == 1 && t.reg 14 == 0) = true := by decide
/-- 20_memory.md R41: writing what an unlisted address reads as leaves no entry. -/
theorem test_memory_canonical :
    Memory.store [] 0x300 [1, 0] = [(0x300, 1)] ∧
    (Memory.store [] 0x300 [1]).write 0x300 0 = [] := by decide

/-! ## Random and timers, with the vectors' TICK_INTERVAL 16667 -/

/-- T1. -/
theorem test_rnd :
    after (run 0xC3 0x0F { State.reset with randPort := [0xB7, 0x11] })
      (fun t => t.reg 3 == 0x07 && t.randPort == [0x11]) = true := by decide
/-- T3 (S-D). -/
theorem test_decay : Timer.decay 16667 500000 ⟨10, 0⟩ = ⟨0, 483343⟩ := by decide
/-- T5, at 17666 and 34334. -/
theorem test_decay_bounds :
    Timer.decay 16667 17666 ⟨2, 1000⟩ = ⟨2, 1000⟩ ∧
    Timer.decay 16667 34334 ⟨2, 1000⟩ = ⟨0, 34334⟩ := by decide
/-- T10: the clock went back. -/
theorem test_decay_backwards : Timer.decay 16667 40000 ⟨3, 50000⟩ = ⟨3, 50000⟩ := by decide
/-- T5: audio at the change to zero and not after. -/
theorem test_audioDue :
    audioDue ⟨1, 17667⟩ ⟨0, 34334⟩ = true ∧ audioDue ⟨0, 34334⟩ ⟨0, 51001⟩ = false := by decide
/-- T10: `Fx07` where no interval has passed, whatever TICK_INTERVAL is. -/
theorem test_ldVxDT :
    after (run 0xF4 0x07 { State.reset with DT := ⟨3, 50000⟩, now := 40000 })
      (fun t => t.reg 4 == 3 && t.DT == ⟨3, 50000⟩) = true := by decide
/-- T6. -/
theorem test_ldDTVx :
    after (run 0xF2 0x15 { regs [(2, 0x3C)] with now := 7000 })
      (fun t => t.DT == ⟨60, 7000⟩) = true := by decide
/-- T7. -/
theorem test_ldSTVx :
    after (run 0xF0 0x18 { State.reset with ST := ⟨5, 0⟩, now := 100 })
      (fun t => t.ST == ⟨0, 100⟩ && t.emitted == []) = true := by decide

/-! ## Display -/

/-- G1. -/
theorem test_cls :
    after (run 0x00 0xE0 { State.reset with fb := lit [0, 2047], dirty := false })
      (fun t => t.fb == lit [] && t.dirty) = true := by decide
/-- G3: both edges wrap. The rows are written out: columns 62 and 63 of row 31, 0 to 5 of row 0. -/
theorem test_drw_wraps :
    after (run 0xD0 0x11 { regs [(0, 62), (1, 31)] with I := 0x300, mem := [(0x300, 0xFF)] })
      (fun t => t.fb[31] == 0xC000000000000000 && t.fb[0] == 0x3F && t.reg 15 == 0 &&
        t.fb == lit [2046, 2047, 0, 1, 2, 3, 4, 5]) = true := by decide
/-- G10: a collision. -/
theorem test_drw_collides :
    after (run 0xD0 0x11 { State.reset with I := 0x300, mem := [(0x300, 0xC0)], fb := lit [0] })
      (fun t => t.fb == lit [1] && t.reg 15 == 1) = true := by decide

/-! ## Keypad -/

/-- P4: the low four bits of the register. -/
theorem test_skp :
    after (run 0xE0 0x9E ((regs [(0, 0x15)]).setKey 5 true)) (·.pc == 0x204) = true := by decide
/-- P2. -/
theorem test_skp_up : after (run 0xE1 0x9E (regs [(1, 5)])) (·.pc == 0x202) = true := by decide
/-- P3. -/
theorem test_sknp : after (run 0xE1 0xA1 (regs [(1, 5)])) (·.pc == 0x204) = true := by decide
/-- P6: a held key is not seen. -/
theorem test_ldVxK_idle :
    after (run 0xF3 0x0A (State.reset.setKey 7 true))
      (fun t => t.kstate == .waiting && t.pc == 0x200 && t.reg 3 == 0) = true := by decide
/-- P9: the last press wins. -/
theorem test_ldVxK_takes_the_last_press :
    after (run 0xF3 0x0A ((waiting none).applyEvents [.keyDown 3, .keyDown 9]))
      (fun t => t.reg 3 == 9 && t.kstate == .idle && t.latch == none && t.pc == 0x202 &&
        t.keys[3] && t.keys[9]) = true := by decide
/-- P10: no latch while idle. -/
theorem test_keyDown_idle : (State.reset.applyEvent (.keyDown 4)).latch = none := by decide
/-- P11. -/
theorem test_key_code_range :
    State.reset.applyEvent (.keyDown 16) = State.reset.emit (.keyCodeRange 16) ∧
    State.reset.applyEvent (.keyUp (-1)) = State.reset.emit (.keyCodeRange (-1)) := by decide

/-! ## The cycle -/

/-- C1: the first cycle renders. -/
theorem test_cycle_renders_first :
    after (step (cycle 0x60 0x05 []))
      (fun t => t.reg 0 == 5 && t.pc == 0x202 && !t.dirty && t.emitted == [.render (lit [])])
      = true := by decide
/-- C2. -/
theorem test_cycle_pause :
    after (step (cycle 0x60 0x05 [.pause]))
      (fun t => t.reg 0 == 0 && t.pc == 0x200 && t.paused && !t.dirty) = true := by decide
/-- C4. -/
theorem test_cycle_resume :
    after (step { cycle 0x60 0x05 [.resume] with paused := true })
      (fun t => t.reg 0 == 5 && !t.paused) = true := by decide
/-- C5: the cycle of a stop completes. -/
theorem test_cycle_stop :
    after (step (cycle 0x60 0x05 [.stop])) (fun t => t.reg 0 == 5 && t.stopped) = true := by decide
/-- C6. -/
theorem test_no_cycle_after_a_fault :
    step { State.reset with fault := some ⟨.stackUnderflow, 0x200⟩ } =
      .fault (.halted ⟨.stackUnderflow, 0x200⟩) := rfl

/-! ## Witnesses: what each obligation's hypotheses are met by -/

theorem witness_DecodeOfEncodeIsTheInstruction : (Instr.drw 15 15 15).wellFormed = true := by decide

theorem witness_EncodeOfDecodeClearsOnlyIgnoredBits : decodeWord? 0x0FEE = some .ret := by decide

theorem witness_DecodingFollowsTheTable :
    decodeWord? 0x51E3 = some (.seReg 1 14) ∧
    ((0x800E#16, 0xF00F#16) ∈ tableRows ∧ 0x8FFE#16 &&& 0xF00F#16 = 0x800E#16) ∧
    (∀ r ∈ tableRows, 0x8008#16 &&& r.2 ≠ r.1) :=
  ⟨by decide, by decide, by simp [tableRows]⟩

theorem witness_IgnoredNibblesDoNotMatter : 15 < 16 ∧ 0 < 16 := by decide

theorem witness_UnknownOpcodeIsALoggedNoOp :
    ∀ r ∈ tableRows, State.reset.fetchWord &&& r.2 ≠ r.1 := by
  rw [show State.reset.fetchWord = 0 by decide]
  simp [tableRows]

theorem witness_StepRunsTheDecodedInstruction :
    (cycle 0x60 0x05 []).fault = none ∧ (cycle 0x60 0x05 []).stopped = false ∧
    (cycle 0x60 0x05 []).beforeExec.paused = false ∧
    decodeWord? (wordOfBytes ((cycle 0x60 0x05 []).mem.read 0x200)
      ((cycle 0x60 0x05 []).mem.read 0x201)) = some (.ldImm 0 5) ∧
    ∃ t, exec (.ldImm 0 5) (cycle 0x60 0x05 []).beforeExec = .next t :=
  ⟨by decide, by decide, by decide, by decide, _, rfl⟩

theorem witness_StepAnswersExactlyWhenACycleBegins :
    (State.reset.fault = none ∧ State.reset.stopped = false) ∧
    ({ State.reset with fault := some ⟨.stackOverflow, 0⟩ } : State).fault =
      some ⟨.stackOverflow, 0⟩ ∧
    (({ State.reset with stopped := true } : State).fault = none ∧
      ({ State.reset with stopped := true } : State).stopped = true) := by decide

theorem witness_PollAndDecayKeepTheProgramState :
    (cycle 0x60 0x05 [.pause]).pending = ⟨0, [.pause]⟩ :: [] ∧ State.reset.pending = [] := by decide

theorem witness_PauseFreezesTheExecutorAlone :
    ((cycle 0x60 0x05 [.pause]).fault = none ∧ (cycle 0x60 0x05 [.pause]).stopped = false ∧
      (cycle 0x60 0x05 [.pause]).beforeExec.paused = true) ∧
    ({ State.reset with paused := true } : State).paused = true ∧ State.reset.paused = false ∧
    (({ State.reset with paused := true } : State).applyEvent .resume).paused = false := by
  decide

theorem witness_RenderNotifiesOnceAndClearsDirty :
    (∃ u, runUnlessPaused (cycle 0x60 0x05 []).beforeExec = .next u ∧ u.dirty = true) ∧
    (∃ u, runUnlessPaused { cycle 0x60 0x05 [] with dirty := false }.beforeExec = .next u ∧
      u.dirty = false) ∧
    ∃ t, step (cycle 0x60 0x05 []) = .next t :=
  ⟨⟨_, rfl, by decide⟩, ⟨_, rfl, by decide⟩, _, rfl⟩

theorem witness_KeyDownSetsTheFlagAndFeedsTheWait :
    (waiting none).kstate = .waiting ∧ State.reset.kstate = .idle ∧ (0 : Key) ≠ 15 := by decide

theorem witness_KeyUpClearsTheFlagAlone : (0 : Key) ≠ 15 := by decide

theorem witness_OutOfRangeKeyCodeIsLoggedAndIgnored :
    ((-1 : Int) < 0 ∨ 15 < (-1 : Int)) ∧ ((16 : Int) < 0 ∨ 15 < (16 : Int)) := by decide

theorem witness_EventsApplyInOrder :
    (waiting none).kstate = .waiting ∧
    (cycle 0x60 0x05 [.pause, .keyDown 16]).pending = ⟨0, [.pause, .keyDown 16]⟩ :: [] := by decide

theorem witness_OnlyCallAndRetRaiseAndChangeNothingElse :
    (∃ t, exec (.call 0) (stacked 16) = .next t ∧ t.fault ≠ none) ∧
    (∃ t, exec .ret (stacked 0) = .next t ∧ t.fault ≠ none) ∧
    (stacked 16).fault = none ∧ (stacked 0).fault = none ∧ 16 < (stacked 17).stack.length :=
  ⟨⟨_, rfl, by decide⟩, ⟨_, rfl, by decide⟩, by decide, by decide, by decide⟩

theorem witness_AFaultedMachineTakesNoFurtherStep :
    ∃ t, step (cycle 0x00 0xEE []) = .next t ∧ t.fault = some ⟨.stackUnderflow, 0x200⟩ :=
  ⟨_, rfl, by decide⟩

theorem witness_CallPushesItsOwnAddress :
    (stacked 15).stack.length < 16 ∧ (stacked 16).stack.length = 16 := by decide

theorem witness_ReturnPopsAndAddsTwo :
    (stacked 1).stack = [] ++ [0x0200] ∧ (stacked 16).stack = List.replicate 15 0x0200 ++ [0x0200] ∧
    (stacked 0).stack = [] ∧ (stacked 15).stack.length < 16 := by decide

theorem witness_CallThenReturnIsSymmetric :
    (stacked 15).stack.length < 16 ∧ ∃ t, exec (.call 0) (stacked 15) = .next t ∧
      (stacked 16).stack = t.stack :=
  ⟨by decide, _, rfl, by decide⟩

theorem witness_SkipOnImmediate : State.reset.reg 3 = 0 ∧ State.reset.reg 3 ≠ 0xFF := by decide

theorem witness_SkipOnRegisters :
    State.reset.reg 1 = State.reset.reg 2 ∧ (regs [(1, 7)]).reg 1 ≠ (regs [(1, 7)]).reg 2 := by decide

theorem witness_SkipOnKey :
    ((regs [(0, 0xFF)]).reg 0).toNat % 16 = (15 : Key).val ∧
    ((regs [(0, 0xFF)]).setKey 15 true).keys[(15 : Key)] = true ∧
    (regs [(0, 0xFF)]).keys[(15 : Key)] = false := by decide

theorem witness_AddSetsCarry :
    (0 : Reg) ≠ 15 ∧
    255 < ((regs [(0, 255), (1, 1)]).reg 0).toNat + ((regs [(0, 255), (1, 1)]).reg 1).toNat ∧
    ((regs [(0, 255)]).reg 0).toNat + ((regs [(0, 255)]).reg 1).toNat ≤ 255 := by decide

theorem witness_SubSetsGreater :
    (0 : Reg) ≠ 15 ∧ ((regs [(0, 8), (1, 7)]).reg 1).toNat < ((regs [(0, 8), (1, 7)]).reg 0).toNat ∧
    ((regs [(0, 7), (1, 7)]).reg 0).toNat ≤ ((regs [(0, 7), (1, 7)]).reg 1).toNat := by decide

theorem witness_SubnSetsNotBorrow :
    (0 : Reg) ≠ 15 ∧ ((regs [(0, 8), (1, 7)]).reg 1).toNat < ((regs [(0, 8), (1, 7)]).reg 0).toNat ∧
    ((regs [(0, 7), (1, 7)]).reg 0).toNat ≤ ((regs [(0, 7), (1, 7)]).reg 1).toNat := by decide

theorem witness_ShiftRightUnderBothQuirks : (0 : Reg) ≠ 15 ∧ (14 : Reg) ≠ 15 := by decide

theorem witness_ShiftLeftUnderBothQuirks : (0 : Reg) ≠ 15 ∧ (14 : Reg) ≠ 15 := by decide

theorem witness_DecimalDigitsAreStoredAtI : State.reset.mem.wf = true := by decide

theorem witness_RegistersAreStoredAtI :
    Memory.wf (Memory.store [] 0xFFF [1, 2]) = true ∧ (0 : Reg) ≤ 15 ∧ (15 : Reg) ≤ 15 := by decide

theorem witness_RegistersAreLoadedFromI : (15 : Reg) ≤ 15 ∧ (0 : Reg) < 15 := by decide

theorem witness_LoadIsTheInverseOfStore :
    State.reset.mem.wf = true ∧ (0 : Reg) ≤ 0 ∧ ∃ t, exec (.storeRegs 0) State.reset = .next t ∧
      ({ State.reset with mem := t.mem } : State).mem = t.mem ∧
      ({ State.reset with mem := t.mem } : State).I = t.I :=
  ⟨by decide, by decide, _, rfl, rfl, by decide⟩

theorem witness_StoresAreSeenByTheNextFetch :
    ({ State.reset with I := 0x202 } : State).mem.wf = true ∧ 1 ≤ (1 : Reg).val ∧
    ({ State.reset with I := 0x202 } : State).I.toNat = State.reset.pc.toNat + 2 := by decide

theorem witness_RandomByteIsMasked :
    ({ State.reset with randPort := [0xB7] } : State).randPort = 0xB7 :: [] ∧
    State.reset.randPort = [] ∧
    ∃ t, exec (.rnd 0 0) { State.reset with randPort := [0xB7] } = .next t ∧ t.randPort ≠ [0xB7] :=
  ⟨by decide, by decide, _, rfl, by decide⟩

theorem witness_EmptyRandomPortGivesAFreeByte :
    ({ State.reset with randPort := [0xB7] } : State).randPort = 0xB7 :: [] ∧
    State.reset.randPort = [] ∧
    ∃ t, exec (.rnd 0 0) State.reset = .next t ∧ t.freeCount ≠ State.reset.freeCount :=
  ⟨by decide, by decide, _, rfl, by decide⟩

/-- No whole interval, and exactly one: at `last`, and at `last` plus TICK_INTERVAL. -/
theorem witness_DecayTakesOffWholeIntervals :
    (0 = if (5 : Nat) ≤ 5 then (5 - 5) / Config.tickInterval else 0) ∧
    (1 = if 5 ≤ 5 + Config.tickInterval
      then (5 + Config.tickInterval - 5) / Config.tickInterval else 0) := by
  constructor
  · simp
  · simp [Nat.div_self (show 0 < Config.tickInterval from Nat.succ_pos _)]

theorem witness_TimerRateIsIndependentOfSampling :
    (∀ m ∈ [3, 7], m ≤ 7) ∧ (⟨5, 7⟩ : Timer).last ≤ 7 := by decide

/-- A count of 1 and one interval gone: the sound timer runs out. A count of 2: it does not. -/
theorem witness_AudioMarksTheSoundTimerRunningOut :
    (({ State.reset with ST := ⟨1, 0⟩, now := Config.tickInterval } : State).ST.count ≠ 0 ∧
      ({ State.reset with ST := ⟨1, 0⟩, now := Config.tickInterval } : State).decayST.ST.count = 0) ∧
    State.reset.ST.count = 0 ∧
    ({ State.reset with ST := ⟨2, 0⟩ } : State).decayST.ST.count ≠ 0 ∧
    ∃ t, exec (.ldSTVx 0) State.reset = .next t := by
  refine ⟨⟨by decide, ?_⟩, by decide, by decide, _, rfl⟩
  have h : 0 < Config.tickInterval := Nat.succ_pos _
  simp [State.decayST, Timer.decay, Timer.ticks, h, Nat.div_self h]

/-- A lit bit on a lit cell; on an unlit one; and a cell no lit bit lands on. -/
theorem witness_DrawXorsTheSpriteAndReportsCollision :
    15 < 16 ∧ SpriteLights [] 0 0 0 1 0 ∧ (lit [0]).cell 0 = true ∧
    (∀ idx < 2048, SpriteLights [] 0 0 0 0 idx → (lit [0]).cell idx = false) ∧
    ¬ SpriteLights [] 0 0 0 0 2047 := by
  refine ⟨by decide, ⟨0, by decide, 0, by decide, by decide, by decide⟩, by decide, ?_, ?_⟩
  · rintro _ _ ⟨r, hr, _⟩
    exact absurd hr (Nat.not_lt_zero r)
  · rintro ⟨r, hr, _⟩
    exact absurd hr (Nat.not_lt_zero r)

theorem witness_DrawingTwiceRestoresTheFramebuffer :
    15 < 16 ∧ (14 : Reg) ≠ 15 ∧ ∀ idx < 2048, State.reset.fb.cell idx = false := by
  refine ⟨by decide, by decide, fun idx _ => ?_⟩
  simp [State.reset, Framebuffer.cell]

theorem witness_KeyReadStateMachine :
    State.reset.kstate = .idle ∧ ((waiting none).kstate = .waiting ∧ (waiting none).latch = none) ∧
    ((waiting (some 15)).kstate = .waiting ∧ (waiting (some 15)).latch = some 15) := by decide

theorem witness_EveryStepKeepsTheWaitAtItsKeyRead :
    ({ cycle 0xF3 0x0A [] with kstate := .waiting } : State).WaitsAtKeyRead ∧
    decodeWord? ({ cycle 0xF3 0x0A [] with kstate := .waiting } : State).fetchWord =
      some (.ldVxK 3) ∧
    ∃ t, step { cycle 0xF3 0x0A [] with kstate := .waiting } = .next t ∧ t.kstate = .waiting :=
  ⟨fun _ => ⟨3, by decide⟩, by decide, _, rfl, by decide⟩

theorem witness_EveryStepKeepsTheInvariant :
    (cycle 0x22 0x00 []).Inv ∧ ∃ t, step (cycle 0x22 0x00 []) = .next t ∧ t.stack ≠ [] :=
  ⟨⟨by decide, by decide, fun k h => absurd h (by simp [cycle, State.reset])⟩, _, rfl, by decide⟩

/-- Each part of the state is written by some instruction the table lists. -/
theorem witness_InstructionsWriteOnlyWhatTheTableLists :
    (0 : Reg) ∉ (Instr.ldImm 1 0).writes ∧
    (after (exec (.ldI 1) State.reset) (fun t => t.I != State.reset.I)) = true ∧
    (after (exec (.call 1) State.reset) (fun t => t.stack != [])) = true ∧
    (after (exec (.ldB 0) State.reset) (fun t => t.mem.read 0 != State.reset.mem.read 0)) = true ∧
    (after (exec .cls { State.reset with dirty := false }) (fun t => t.dirty)) = true ∧
    (after (exec (.ldVxK 0) State.reset) (fun t => t.kstate != .idle)) = true ∧
    (after (exec (.ldDTVx 0) { State.reset with now := 1 }) (fun t => t.DT != ⟨0, 0⟩)) = true ∧
    (after (exec (.ldSTVx 0) { State.reset with now := 1 }) (fun t => t.ST != ⟨0, 0⟩)) = true ∧
    (after (exec (.rnd 0 0) State.reset) (fun t => t.freeCount != 0)) = true := by decide

theorem witness_DefaultNextAddressIsPcPlusTwo :
    (Instr.ldImm 0 0).replacesNext = false ∧
    (after (exec (.seImm 0 0) State.reset) (·.pc == 0x204)) = true ∧
    (after (exec (.sneReg 0 0) State.reset) (·.pc == 0x202)) = true ∧
    (after (exec (.sknp 0) State.reset) (·.pc == 0x204)) = true ∧
    (after (exec (.ldVxK 0) State.reset) (·.pc == 0x200)) = true := by decide

theorem witness_TheSoundTimerCannotBeObserved :
    SameButSound (cycle 0x60 0x05 []) { cycle 0x60 0x05 [] with ST := ⟨5, 0⟩ } ∧
    ∃ t, step (cycle 0x60 0x05 []) = .next t :=
  ⟨rfl, _, rfl⟩

theorem witness_CanonicalMemoriesWithEqualBytesAreEqual :
    Memory.wf [] = true ∧ Memory.wf ((Memory.store [] 0x300 [1]).write 0x300 0) = true ∧
    ∀ a < 4096, Memory.read [] a =
      Memory.read ((Memory.store [] 0x300 [1]).write 0x300 0) a :=
  ⟨by decide, by decide, fun _ _ => rfl⟩

theorem witness_ResetGivesTheResetTable :
    ([] : List Byte).length ≤ 3584 ∧ (List.replicate 3584 (0 : Byte)).length ≤ 3584 ∧
    0 < fontTable.length ∧ 79 < fontTable.length :=
  ⟨Nat.zero_le _, List.length_replicate.le, by decide, by decide⟩

theorem witness_LoadAcceptsExactlyProgramsThatFit :
    (List.replicate 3584 (0 : Byte)).length ≤ 3584 ∧
    3584 < (List.replicate 3585 (0 : Byte)).length :=
  ⟨List.length_replicate.le, Nat.lt_of_lt_of_eq (by decide) List.length_replicate.symm⟩

end Sys2Proof.Tests
end

section
/-! PROOFS. Encoding (30_encoding.md): the row a decoded word lies in (R64), the ignored nibbles (R65)
and the unknown words (R66). -/

namespace Sys2Proof

open Laws.EncodeRow (of_F000 of_F00F of_F0FF)

/-! ## The row of a decoded word (R64)

The selectors `decodeWord?` reads are the bits the row of its answer fixes: one lemma per family
that has a second selector, then the family nibble. -/

/-- The word has the fixed bits of the instruction's row. -/
def InRowOf (w : Word) (i : Instr) : Prop := w &&& (rowOf i).2 = (rowOf i).1

theorem rowOf_mem_tableRows (i : Instr) : rowOf i ∈ tableRows := by
  cases i <;> simp [rowOf, tableRows]

section Families

variable {w : Word} {i : Instr}

theorem inRowOf_of_decodeFamily0 (hop : opOf w = 0x0) (h : decodeFamily0 w = some i) :
    InRowOf w i := by
  unfold decodeFamily0 at h
  split at h <;> cases h <;> exact of_F0FF hop ‹_›

theorem inRowOf_of_decodeFamily8 (hop : opOf w = 0x8) (h : decodeFamily8 w = some i) :
    InRowOf w i := by
  unfold decodeFamily8 at h
  split at h <;> cases h <;> exact of_F00F hop ‹_›

theorem inRowOf_of_decodeFamilyE (hop : opOf w = 0xE) (h : decodeFamilyE w = some i) :
    InRowOf w i := by
  unfold decodeFamilyE at h
  split at h <;> cases h <;> exact of_F0FF hop ‹_›

theorem inRowOf_of_decodeFamilyF (hop : opOf w = 0xF) (h : decodeFamilyF w = some i) :
    InRowOf w i := by
  unfold decodeFamilyF at h
  split at h <;> cases h <;> exact of_F0FF hop ‹_›

/-- A word lies in the row of the instruction it decodes to. -/
theorem inRowOf_of_decodeWord? (h : decodeWord? w = some i) : InRowOf w i := by
  unfold decodeWord? at h
  split at h
  case h_1 hop => exact inRowOf_of_decodeFamily0 hop h
  case h_9 hop => exact inRowOf_of_decodeFamily8 hop h
  case h_15 hop => exact inRowOf_of_decodeFamilyE hop h
  case h_16 hop => exact inRowOf_of_decodeFamilyF hop h
  all_goals cases h
  all_goals exact of_F000 ‹_›

end Families

theorem decodeWord?_eq_none_of_no_row {w : Word} (h : ∀ r ∈ tableRows, w &&& r.2 ≠ r.1) :
    decodeWord? w = none := by
  rw [Option.eq_none_iff_forall_ne_some]
  intro i hi
  exact h (rowOf i) (rowOf_mem_tableRows i) (inRowOf_of_decodeWord? hi)

/-! ## The ignored nibbles (R65)

A word with any nibble in the ignored place is a word of format XS (family 0) or of format XYN
(families 5 and 9), whose fields Laws/Decode.lean gives; the decoder does not read that nibble. -/

theorem encXS_zero_eq_ofNat (m : Reg) (sub : Nat) :
    encXS 0x0 m sub = BitVec.ofNat 16 (sub + 0x100 * m.val) := by
  rw [encXS]
  congr 1
  omega

theorem encXYN_eq_ofNat (op : Nat) (x y : Reg) (n : Nat) :
    encXYN op x y n = BitVec.ofNat 16 (0x1000 * op + 0x100 * x.val + 0x10 * y.val + n) := by
  rw [encXYN]
  congr 1
  omega

section IgnoredNibble

variable {m : Nat} (hm : m < 16) (x y : Reg)
include hm

theorem decodeWord?_cls_any_nibble :
    decodeWord? (BitVec.ofNat 16 (0x00E0 + 0x100 * m)) = some .cls := by
  rw [← encXS_zero_eq_ofNat ⟨m, hm⟩]
  simp [decodeWord?, decodeFamily0, opOf_encXS, bitField_encXS]

theorem decodeWord?_ret_any_nibble :
    decodeWord? (BitVec.ofNat 16 (0x00EE + 0x100 * m)) = some .ret := by
  rw [← encXS_zero_eq_ofNat ⟨m, hm⟩]
  simp [decodeWord?, decodeFamily0, opOf_encXS, bitField_encXS]

theorem decodeWord?_seReg_any_nibble :
    decodeWord? (BitVec.ofNat 16 (0x5000 + 0x100 * x.val + 0x10 * y.val + m)) =
      some (.seReg x y) := by
  rw [← encXYN_eq_ofNat 0x5]
  simp [decodeWord?, opOf_encXYN, xOf_encXYN, yOf_encXYN, hm]

theorem decodeWord?_sneReg_any_nibble :
    decodeWord? (BitVec.ofNat 16 (0x9000 + 0x100 * x.val + 0x10 * y.val + m)) =
      some (.sneReg x y) := by
  rw [← encXYN_eq_ofNat 0x9]
  simp [decodeWord?, opOf_encXYN, xOf_encXYN, yOf_encXYN, hm]

end IgnoredNibble

theorem spells_cls : Machine.Spells 0x00E0 .cls := ⟨rfl, rfl⟩

theorem spells_ret : Machine.Spells 0x00EE .ret := ⟨rfl, rfl⟩

theorem spells_seReg (x y : Reg) :
    Machine.Spells (0x5000 + 0x100 * x.val + 0x10 * y.val) (.seReg x y) :=
  ⟨encXYN_eq_ofNat 0x5 x y 0, decodeWord?_seReg_any_nibble (m := 0) (by decide) x y⟩

theorem spells_sneReg (x y : Reg) :
    Machine.Spells (0x9000 + 0x100 * x.val + 0x10 * y.val) (.sneReg x y) :=
  ⟨encXYN_eq_ofNat 0x9 x y 0, decodeWord?_sneReg_any_nibble (m := 0) (by decide) x y⟩

/-! ## The unknown words (R66) -/

namespace Machine

theorem firstByte_fetchWord (s : State) : firstByte s.fetchWord = s.mem.read s.pc.toNat :=
  firstByte_wordOfBytes _ _

theorem secondByte_fetchWord (s : State) :
    secondByte s.fetchWord = s.mem.read (s.pc.toNat + 1) :=
  secondByte_wordOfBytes _ _

theorem execUnknown_eq (b0 b1 : Byte) (s : State) :
    execUnknown b0 b1 s =
      .next { s with pc := s.pc + 2, emitted := .unknownOpcode b0 b1 :: s.emitted } := rfl

end Machine

/-! ## The obligations -/

/-- Settles O4: each word is one of format XS or XYN, of which the decoder reads the other fields
alone; the canonical words are the case of the zero nibble. -/
theorem ignoredNibblesDoNotMatter : Obligations.IgnoredNibblesDoNotMatter := by
  intro m x y hm
  exact ⟨spells_cls, spells_ret, spells_seReg x y, spells_sneReg x y,
    decodeWord?_cls_any_nibble hm, decodeWord?_ret_any_nibble hm,
    decodeWord?_seReg_any_nibble hm x y, decodeWord?_sneReg_any_nibble hm x y⟩

/-- Settles O6: a word in no row does not decode, so the executor runs `execUnknown` on the two bytes
at the pc. -/
theorem unknownOpcodeIsALoggedNoOp : Obligations.UnknownOpcodeIsALoggedNoOp := by
  intro s hrow
  rw [Machine.invoke_of_unknown (decodeWord?_eq_none_of_no_row hrow), Machine.execUnknown_eq,
    Machine.firstByte_fetchWord, Machine.secondByte_fetchWord]

end Sys2Proof
end

section
/-! PROOFS. Control transfer (40_flow_control.md): the words of format NNN that transfer control (R64),
and what JP, CALL, RET and JP V0 do in each of their cases (R82 to R85). -/

namespace Sys2Proof.Machine

/-! ## The words of format NNN (R61, R64) -/

section FormatNNN

variable (nnn : Addr12)

theorem spells_jp : Spells (0x1000 + nnn.toNat) (.jp nnn) := by
  have hdec : decodeWord? (encNNN 0x1 nnn) = some (.jp nnn) := by
    simp [decodeWord?, opOf_encNNN, nnnOf_encNNN]
  exact ⟨rfl, hdec⟩

theorem spells_call : Spells (0x2000 + nnn.toNat) (.call nnn) := by
  have hdec : decodeWord? (encNNN 0x2 nnn) = some (.call nnn) := by
    simp [decodeWord?, opOf_encNNN, nnnOf_encNNN]
  exact ⟨rfl, hdec⟩

theorem spells_jpV0 : Spells (0xB000 + nnn.toNat) (.jpV0 nnn) := by
  have hdec : decodeWord? (encNNN 0xB nnn) = some (.jpV0 nnn) := by
    simp [decodeWord?, opOf_encNNN, nnnOf_encNNN]
  exact ⟨rfl, hdec⟩

end FormatNNN

/-! ## The targets (R63) -/

@[simp] theorem addrWord_toNat (nnn : Addr12) : (addrWord nnn).toNat = nnn.toNat :=
  BitVec.toNat_setWidth_of_le (by decide)

@[simp] theorem byteWord_toNat (b : Byte) : (byteWord b).toNat = b.toNat :=
  BitVec.toNat_setWidth_of_le (by decide)

/-! ## Frames from unchanged fields -/

theorem regsExcept_of_V_eq {written : List Reg} {s t : State} (h : t.V = s.V) :
    RegsExcept written s t := fun r _ => congrArg (·[r]) h

theorem bytesKept_of_mem_eq {s t : State} (h : t.mem = s.mem) : BytesKept s t :=
  fun a => congrArg (·.read a) h

theorem State.jump_onlyRegs (s : State) (a : Word) : OnlyRegs [] s (s.jump a) where
  regs := regsExcept_of_V_eq rfl
  bytes := bytesKept_of_mem_eq rfl
  rest := rfl

/-! ## What each instruction does, case by case (R82 to R85) -/

section Exec

variable {s : State} (nnn : Addr12)

theorem exec_jp : exec (.jp nnn) s = .next (s.jump (addrWord nnn)) := rfl

theorem exec_jpV0 :
    exec (.jpV0 nnn) s = .next (s.jump (addrWord nnn + byteWord (s.reg 0))) := rfl

theorem exec_call_room (h : s.stack.length < 16) :
    exec (.call nnn) s = .next { s with stack := s.stack ++ [s.pc], pc := addrWord nnn } := by
  rw [exec, execCall, State.push_room h]
  rfl

theorem exec_call_full (h : 16 ≤ s.stack.length) :
    exec (.call nnn) s = .next { s with fault := some ⟨.stackOverflow, s.pc⟩ } := by
  rw [exec, execCall, State.push_full h]
  rfl

theorem exec_ret_concat {below : List Word} {a : Word} (h : s.stack = below ++ [a]) :
    exec .ret s = .next { s with stack := below, pc := a + 2 } := by
  rw [exec, execRet, State.pop_concat h]
  rfl

theorem exec_ret_empty (h : s.stack = []) :
    exec .ret s = .next { s with fault := some ⟨.stackUnderflow, s.pc⟩ } := by
  rw [exec, execRet, State.pop_empty h]
  rfl

end Exec

end Sys2Proof.Machine

namespace Sys2Proof

open Machine

/-! ## The obligations -/

/-- Settles O20: the two cases of CALL, `exec_call_room` and `exec_call_full`. -/
theorem callPushesItsOwnAddress : Obligations.CallPushesItsOwnAddress := by
  intro nnn s
  refine ⟨spells_call nnn, fun hroom => ?_, fun hfull => exec_call_full nnn hfull.ge⟩
  exact ⟨_, exec_call_room nnn hroom, rfl, addrWord_toNat nnn, regsExcept_of_V_eq rfl,
    bytesKept_of_mem_eq rfl, rfl⟩

/-- Settles O21: the two cases of RET, `exec_ret_concat` and `exec_ret_empty`; the entry a CALL with
room leaves on top is its own pc, so the RET after it goes to that plus 2. -/
theorem returnPopsAndAddsTwo : Obligations.ReturnPopsAndAddsTwo := by
  intro s
  refine ⟨spells_ret, fun m hm => decodeWord?_ret_any_nibble hm, ?entry, exec_ret_empty, ?callRet⟩
  case entry =>
    intro below a htop
    exact ⟨_, exec_ret_concat htop, rfl, BitVec.toNat_add a 2, regsExcept_of_V_eq rfl,
      bytesKept_of_mem_eq rfl, rfl⟩
  case callRet =>
    intro nnn hroom
    exact ⟨_, _, exec_call_room nnn hroom, exec_ret_concat rfl, rfl⟩

/-- Settles O18: JP is one jump, to the zero-extended address. -/
theorem jumpGoesToItsAddress : Obligations.JumpGoesToItsAddress := by
  intro nnn s
  exact ⟨spells_jp nnn, _, exec_jp nnn, addrWord_toNat nnn, s.jump_onlyRegs _⟩

/-- Settles O19: JP V0 is one jump, to the sum of the two zero-extended operands. -/
theorem jumpV0AddsTheRegister : Obligations.JumpV0AddsTheRegister := by
  intro nnn s
  have hsum : (addrWord nnn + byteWord (s.reg 0)).toNat =
      (nnn.toNat + (s.reg 0).toNat) % 65536 := by
    rw [BitVec.toNat_add, addrWord_toNat, byteWord_toNat]
  exact ⟨spells_jpV0 nnn, _, exec_jpV0 nnn, hsum, s.jump_onlyRegs _⟩

end Sys2Proof
end

section
/-! PROOFS. Conditional skips on registers (41_skips.md): the words of format XKK (R62, R64), what a skip
does when it is taken and when it is not (R67), and SE and SNE (R90 to R93). -/

namespace Sys2Proof

theorem encXKK_eq_ofNat (op : Nat) (x : Reg) (kk : Byte) :
    encXKK op x kk = BitVec.ofNat 16 (0x1000 * op + 0x100 * x.val + kk.toNat) := by
  rw [encXKK]
  congr 1
  omega

namespace Machine

/-! ## The words of format XKK (R62, R64) -/

section FormatXKK

variable (x : Reg) (kk : Byte)

theorem spells_seImm : Spells (0x3000 + 0x100 * x.val + kk.toNat) (.seImm x kk) := by
  have hdec : decodeWord? (encXKK 0x3 x kk) = some (.seImm x kk) := by
    simp [decodeWord?, opOf_encXKK, xOf_encXKK, kkOf_encXKK]
  exact ⟨encXKK_eq_ofNat 0x3 x kk, encXKK_eq_ofNat 0x3 x kk ▸ hdec⟩

theorem spells_sneImm : Spells (0x4000 + 0x100 * x.val + kk.toNat) (.sneImm x kk) := by
  have hdec : decodeWord? (encXKK 0x4 x kk) = some (.sneImm x kk) := by
    simp [decodeWord?, opOf_encXKK, xOf_encXKK, kkOf_encXKK]
  exact ⟨encXKK_eq_ofNat 0x4 x kk, encXKK_eq_ofNat 0x4 x kk ▸ hdec⟩

end FormatXKK

/-! ## A skip, taken and not taken (R67, R13) -/

section SkipIf

variable {s : State} {c : Bool}

theorem State.skipIf_onlyRegs (s : State) (c : Bool) : OnlyRegs [] s (s.skipIf c) where
  regs := regsExcept_of_V_eq (s.skipIf_V c)
  bytes := bytesKept_of_mem_eq (s.skipIf_mem c)
  rest := rfl

theorem State.skipIf_pc_taken (h : c = true) :
    (s.skipIf c).pc.toNat = (s.pc.toNat + 4) % 65536 := by
  rw [State.skipIf_pc, if_pos h]
  exact BitVec.toNat_add s.pc 4

theorem State.skipIf_pc_not_taken (h : c = false) :
    (s.skipIf c).pc.toNat = (s.pc.toNat + 2) % 65536 := by
  rw [State.skipIf_pc, if_neg (Bool.eq_false_iff.mp h)]
  exact BitVec.toNat_add s.pc 2

/-- What an instruction that is one skip does, where `taken` and `passed` decide its condition. -/
theorem skips_of_exec_eq_skipIf {i : Instr} {taken passed : Prop}
    (hexec : exec i s = .next (s.skipIf c))
    (htaken : taken → c = true) (hpassed : passed → c = false) :
    ∃ t, exec i s = .next t ∧ OnlyRegs [] s t ∧
      (taken → t.pc.toNat = (s.pc.toNat + 4) % 65536) ∧
      (passed → t.pc.toNat = (s.pc.toNat + 2) % 65536) :=
  ⟨_, hexec, s.skipIf_onlyRegs c, fun h => State.skipIf_pc_taken (htaken h),
    fun h => State.skipIf_pc_not_taken (hpassed h)⟩

end SkipIf

/-! ## The conditions of SE and SNE (R90 to R93) -/

section Exec

variable (x y : Reg) (kk : Byte) (s : State)

theorem exec_seImm : exec (.seImm x kk) s = .next (s.skipIf (decide (s.reg x = kk))) := rfl

theorem exec_sneImm : exec (.sneImm x kk) s = .next (s.skipIf (decide (s.reg x ≠ kk))) := rfl

theorem exec_seReg : exec (.seReg x y) s = .next (s.skipIf (decide (s.reg x = s.reg y))) := rfl

theorem exec_sneReg : exec (.sneReg x y) s = .next (s.skipIf (decide (s.reg x ≠ s.reg y))) := rfl

end Exec

end Machine

open Machine

/-! ## The obligations -/

/-- Settles O23: each of the two is one skip; SE's condition is the equality, SNE's its negation. -/
theorem skipOnImmediate : Obligations.SkipOnImmediate := by
  intro x kk s
  refine ⟨spells_seImm x kk, spells_sneImm x kk, ?se, ?sne⟩
  case se => exact skips_of_exec_eq_skipIf (exec_seImm x kk s) decide_eq_true decide_eq_false
  case sne =>
    exact skips_of_exec_eq_skipIf (exec_sneImm x kk s) decide_eq_true
      fun heq => decide_eq_false (not_not_intro heq)

/-- Settles O24: as O23, with a second register for the immediate; that the last nibble is ignored is
`decodeWord?_seReg_any_nibble` and `decodeWord?_sneReg_any_nibble`. -/
theorem skipOnRegisters : Obligations.SkipOnRegisters := by
  intro x y s
  refine ⟨spells_seReg x y, spells_sneReg x y, ?nibble, ?se, ?sne⟩
  case nibble =>
    intro m hm
    exact ⟨decodeWord?_seReg_any_nibble hm x y, decodeWord?_sneReg_any_nibble hm x y⟩
  case se => exact skips_of_exec_eq_skipIf (exec_seReg x y s) decide_eq_true decide_eq_false
  case sne =>
    exact skips_of_exec_eq_skipIf (exec_sneReg x y s) decide_eq_true
      fun heq => decide_eq_false (not_not_intro heq)

end Sys2Proof
end

section
/-! PROOFS. Immediate loads and the register ALU (42_alu.md): decoding an encoded word, what a register
write with and without a flag does (R67, R111), the flags and results as numbers, and the eleven
instructions (R100 to R110). -/

namespace Sys2Proof

/-! ## The encoded word of an instruction (R62, R64)

The decoder finds in an encoded word the operands and the selectors that `encode` wrote there. -/

/-- DRW is the one instruction whose operands a type does not bound. -/
theorem decodeWord?_encode {i : Instr} (hwf : i.wellFormed = true) :
    decodeWord? (encode i) = some i := by
  cases i with
  | cls => rfl
  | ret => rfl
  | jp | call | ldI | jpV0 => simp [encode, decodeWord?, opOf_encNNN, nnnOf_encNNN]
  | seImm | sneImm | ldImm | addImm | rnd =>
    simp [encode, decodeWord?, opOf_encXKK, xOf_encXKK, kkOf_encXKK]
  | seReg | sneReg => simp [encode, decodeWord?, opOf_encXYN, xOf_encXYN, yOf_encXYN]
  | ldReg | orReg | andReg | xorReg | addReg | subReg | shr | subnReg | shl =>
    simp [encode, decodeWord?, decodeFamily8, opOf_encXYN, xOf_encXYN, yOf_encXYN, nOf_encXYN]
  | drw x y n =>
    have hn : n < 16 := of_decide_eq_true hwf
    simp [encode, decodeWord?, opOf_encXYN, xOf_encXYN, yOf_encXYN, nOf_encXYN, hn]
  | skp | sknp => simp [encode, decodeWord?, decodeFamilyE, opOf_encXS, xOf_encXS, bitField_encXS]
  | ldVxDT | ldVxK | ldDTVx | ldSTVx | addI | ldF | ldB | storeRegs | loadRegs =>
    simp [encode, decodeWord?, decodeFamilyF, opOf_encXS, xOf_encXS, bitField_encXS]

/-- Format XYS with the sub-selector in the fixed part of the word. -/
theorem encXYN_eq_ofNat_selector_first (op : Nat) (x y : Reg) (n : Nat) :
    encXYN op x y n = BitVec.ofNat 16 (0x1000 * op + n + 0x100 * x.val + 0x10 * y.val) := by
  rw [encXYN]
  congr 1
  omega

namespace Machine

theorem spells_of_encode_eq {i : Instr} {w : Nat} (hwf : i.wellFormed = true)
    (henc : encode i = BitVec.ofNat 16 w) : Spells w i :=
  ⟨henc, henc ▸ decodeWord?_encode hwf⟩

/-- The words of family 8: `n` is the sub-selector. -/
theorem spells_family8 {i : Instr} {x y : Reg} (n : Nat) (hwf : i.wellFormed = true)
    (henc : encode i = encXYN 0x8 x y n) :
    Spells (0x8000 + n + 0x100 * x.val + 0x10 * y.val) i :=
  spells_of_encode_eq hwf (henc.trans (encXYN_eq_ofNat_selector_first 0x8 x y n))

/-! ## A register write, without and with a flag (R67, R111) -/

section RegisterWrites

variable (s : State) (x : Reg) (res flag : Byte)

theorem State.reg_writeReg_self : (s.writeReg x res).reg x = res := by
  rw [State.reg_writeReg, if_pos rfl]

theorem State.writeReg_onlyRegs : OnlyRegs [x] s (s.writeReg x res) where
  regs := by
    intro r hr
    rw [State.reg_writeReg, if_neg (List.ne_of_not_mem_cons hr)]
  bytes := bytesKept_of_mem_eq (s.writeReg_mem x res)
  rest := rfl

theorem State.reg_writeRegFlag_flag : (s.writeRegFlag x res flag).reg 15 = flag :=
  (s.reg_writeRegFlag x 15 res flag).trans (if_pos rfl)

theorem State.reg_writeRegFlag_self {x : Reg} (hx : x ≠ 15) :
    (s.writeRegFlag x res flag).reg x = res :=
  (s.reg_writeRegFlag x x res flag).trans ((if_neg hx).trans (if_pos rfl))

theorem State.writeRegFlag_onlyRegs : OnlyRegs [x, 15] s (s.writeRegFlag x res flag) where
  regs := by
    intro r hr
    obtain ⟨hx, hflag⟩ : r ≠ x ∧ r ≠ Config.flagReg := by simpa [Config.flagReg] using hr
    rw [State.reg_writeRegFlag, if_neg hflag, if_neg hx]
  bytes := bytesKept_of_mem_eq (s.writeRegFlag_mem x res flag)
  rest := rfl

end RegisterWrites

/-- What an instruction that is one register write with a flag does. -/
theorem effect_of_exec_eq_writeRegFlag {i : Instr} {s : State} {x : Reg} {res flag : Byte}
    (hexec : exec i s = .next (s.writeRegFlag x res flag)) :
    ∃ t, exec i s = .next t ∧ OnlyRegs [x, 15] s t ∧ t.pc = s.pc + 2 ∧
      (x ≠ 15 → t.reg x = res) ∧ t.reg 15 = flag :=
  ⟨_, hexec, s.writeRegFlag_onlyRegs x res flag, s.writeRegFlag_pc x res flag,
    s.reg_writeRegFlag_self res flag, s.reg_writeRegFlag_flag x res flag⟩

/-! ## Flags (R106 to R110) -/

theorem flagByte_toNat (c : Bool) : (flagByte c).toNat = c.toNat := by
  cases c <;> rfl

theorem flagByte_decide_pos {p : Prop} [Decidable p] (h : p) : flagByte (decide p) = 1 := by
  rw [decide_eq_true h]
  rfl

theorem flagByte_decide_neg {p : Prop} [Decidable p] (h : ¬ p) : flagByte (decide p) = 0 := by
  rw [decide_eq_false h]
  rfl

section FlagsAsNumbers

variable {a b : Byte}

theorem carryFlag_eq_one (h : 255 < a.toNat + b.toNat) : carryFlag a b = 1 :=
  flagByte_decide_pos h

theorem carryFlag_eq_zero (h : a.toNat + b.toNat ≤ 255) : carryFlag a b = 0 :=
  flagByte_decide_neg h.not_gt

theorem greaterFlag_eq_one (h : b.toNat < a.toNat) : greaterFlag a b = 1 :=
  flagByte_decide_pos h

theorem greaterFlag_eq_zero (h : a.toNat ≤ b.toNat) : greaterFlag a b = 0 :=
  flagByte_decide_neg h.not_gt

theorem notBorrowFlag_eq_one (h : a.toNat ≤ b.toNat) : notBorrowFlag a b = 1 :=
  flagByte_decide_pos h

theorem notBorrowFlag_eq_zero (h : b.toNat < a.toNat) : notBorrowFlag a b = 0 :=
  flagByte_decide_neg h.not_ge

theorem shrFlag_toNat (v : Byte) : (shrFlag v).toNat = v.toNat % 2 := by
  rw [shrFlag, flagByte_toNat, BitVec.getLsbD, Nat.toNat_testBit, pow_zero, Nat.div_one]

/-- Bit 7 is the top bit of a byte, so the quotient by 128 is that bit. -/
theorem shlFlag_toNat (v : Byte) : (shlFlag v).toNat = v.toNat / 128 := by
  have hv := v.isLt
  rw [shlFlag, flagByte_toNat, BitVec.getLsbD, Nat.toNat_testBit]
  omega

end FlagsAsNumbers

/-! ## Results as numbers (R107 to R110) -/

theorem byte_sub_toNat (a b : Byte) :
    ((a - b).toNat : Int) = (a.toNat - b.toNat : Int) % 256 := by
  have ha := a.isLt
  have hb := b.isLt
  rw [BitVec.toNat_sub]
  omega

theorem byte_shiftRight_one_toNat (v : Byte) : (v >>> 1).toNat = v.toNat / 2 := by
  rw [BitVec.toNat_ushiftRight, Nat.shiftRight_one]

theorem byte_shiftLeft_one_toNat (v : Byte) : (v <<< 1).toNat = 2 * v.toNat % 256 := by
  rw [BitVec.toNat_shiftLeft, Nat.shiftLeft_eq, pow_one, Nat.mul_comm]

theorem shiftOperand_eq_reg_shiftSource (s : State) (x y : Reg) :
    shiftOperand s x y = s.reg (shiftSource Config.shiftQuirk x y) := by
  rw [shiftOperand]
  cases Config.shiftQuirk <;> rfl

/-! ## What each instruction does (R100 to R110) -/

section Exec

variable (x y : Reg) (kk : Byte) (s : State)

theorem exec_ldImm : exec (.ldImm x kk) s = .next (s.writeReg x kk) := rfl

theorem exec_addImm : exec (.addImm x kk) s = .next (s.writeReg x (s.reg x + kk)) := rfl

theorem exec_ldReg : exec (.ldReg x y) s = .next (s.writeReg x (s.reg y)) := rfl

theorem exec_orReg : exec (.orReg x y) s = .next (s.writeReg x (s.reg x ||| s.reg y)) := rfl

theorem exec_andReg : exec (.andReg x y) s = .next (s.writeReg x (s.reg x &&& s.reg y)) := rfl

theorem exec_xorReg : exec (.xorReg x y) s = .next (s.writeReg x (s.reg x ^^^ s.reg y)) := rfl

theorem exec_addReg : exec (.addReg x y) s =
    .next (s.writeRegFlag x (s.reg x + s.reg y) (carryFlag (s.reg x) (s.reg y))) := rfl

theorem exec_subReg : exec (.subReg x y) s =
    .next (s.writeRegFlag x (s.reg x - s.reg y) (greaterFlag (s.reg x) (s.reg y))) := rfl

theorem exec_subnReg : exec (.subnReg x y) s =
    .next (s.writeRegFlag x (s.reg y - s.reg x) (notBorrowFlag (s.reg x) (s.reg y))) := rfl

theorem exec_shr : exec (.shr x y) s =
    .next (s.writeRegFlag x (s.reg (shiftSource Config.shiftQuirk x y) >>> 1)
      (shrFlag (s.reg (shiftSource Config.shiftQuirk x y)))) := by
  rw [← shiftOperand_eq_reg_shiftSource]
  rfl

theorem exec_shl : exec (.shl x y) s =
    .next (s.writeRegFlag x (s.reg (shiftSource Config.shiftQuirk x y) <<< 1)
      (shlFlag (s.reg (shiftSource Config.shiftQuirk x y)))) := by
  rw [← shiftOperand_eq_reg_shiftSource]
  rfl

end Exec

end Machine

open Machine

/-! ## The obligations -/

/-- Settles O27: each of the four is one register write without a flag, of Vy or of a bitwise operation
on Vx and Vy. -/
theorem copyAndLogic : Obligations.CopyAndLogic := by
  intro x y s
  refine ⟨spells_family8 0 rfl rfl, spells_family8 1 rfl rfl, spells_family8 2 rfl rfl,
    spells_family8 3 rfl rfl, ?ld, ?or, ?and, ?xor⟩
  case ld =>
    exact ⟨_, exec_ldReg x y s, s.writeReg_onlyRegs x _, rfl, s.reg_writeReg_self x _⟩
  case or =>
    refine ⟨_, exec_orReg x y s, s.writeReg_onlyRegs x _, rfl, fun j => ?_⟩
    rw [State.reg_writeReg_self, BitVec.getLsbD_or]
  case and =>
    refine ⟨_, exec_andReg x y s, s.writeReg_onlyRegs x _, rfl, fun j => ?_⟩
    rw [State.reg_writeReg_self, BitVec.getLsbD_and]
  case xor =>
    refine ⟨_, exec_xorReg x y s, s.writeReg_onlyRegs x _, rfl, fun j => ?_⟩
    rw [State.reg_writeReg_self, BitVec.getLsbD_xor]

/-- Settles O28: one register write with the carry as flag. -/
theorem addSetsCarry : Obligations.AddSetsCarry := by
  intro x y s
  obtain ⟨t, hexec, hframe, hpc, hres, hflag⟩ :=
    effect_of_exec_eq_writeRegFlag (exec_addReg x y s)
  refine ⟨spells_family8 4 rfl rfl, t, hexec, hframe, hpc, fun hx => ?sum,
    fun h => hflag.trans (carryFlag_eq_one h), fun h => hflag.trans (carryFlag_eq_zero h)⟩
  case sum => rw [hres hx, BitVec.toNat_add]

/-- Settles O29: one register write with "strictly greater" as flag. -/
theorem subSetsGreater : Obligations.SubSetsGreater := by
  intro x y s
  obtain ⟨t, hexec, hframe, hpc, hres, hflag⟩ :=
    effect_of_exec_eq_writeRegFlag (exec_subReg x y s)
  refine ⟨spells_family8 5 rfl rfl, t, hexec, hframe, hpc, fun hx => ?difference,
    fun h => hflag.trans (greaterFlag_eq_one h), fun h => hflag.trans (greaterFlag_eq_zero h)⟩
  case difference => rw [hres hx, byte_sub_toNat]

/-- Settles O30: as O29 with the operands exchanged, but with "no borrow" as flag, which equal operands
set. -/
theorem subnSetsNotBorrow : Obligations.SubnSetsNotBorrow := by
  intro x y s
  obtain ⟨t, hexec, hframe, hpc, hres, hflag⟩ :=
    effect_of_exec_eq_writeRegFlag (exec_subnReg x y s)
  refine ⟨spells_family8 7 rfl rfl, t, hexec, hframe, hpc, fun hx => ?difference,
    fun h => hflag.trans (notBorrowFlag_eq_one h), fun h => hflag.trans (notBorrowFlag_eq_zero h)⟩
  case difference => rw [hres hx, byte_sub_toNat]

/-- Settles O31: one register write with bit 0 of the shifted register as flag, whichever register
`shiftSource` selects. -/
theorem shiftRightUnderBothQuirks : Obligations.ShiftRightUnderBothQuirks := by
  intro x y s
  obtain ⟨t, hexec, hframe, hpc, hres, hflag⟩ := effect_of_exec_eq_writeRegFlag (exec_shr x y s)
  refine ⟨spells_family8 6 rfl rfl, t, hexec, hframe, hpc, fun hx => ?half, ?bit⟩
  case half => rw [hres hx, byte_shiftRight_one_toNat]
  case bit => rw [hflag, shrFlag_toNat]

/-- Settles O32: one register write with bit 7 of the shifted register as flag, whichever register
`shiftSource` selects. -/
theorem shiftLeftUnderBothQuirks : Obligations.ShiftLeftUnderBothQuirks := by
  intro x y s
  obtain ⟨t, hexec, hframe, hpc, hres, hflag⟩ := effect_of_exec_eq_writeRegFlag (exec_shl x y s)
  refine ⟨spells_family8 0xE rfl rfl, t, hexec, hframe, hpc, fun hx => ?twice, ?bit⟩
  case twice => rw [hres hx, byte_shiftLeft_one_toNat]
  case bit => rw [hflag, shlFlag_toNat]

/-- Settles O26: each of the two is one register write without a flag. -/
theorem immediateLoadAndAdd : Obligations.ImmediateLoadAndAdd := by
  intro x kk s
  refine ⟨spells_of_encode_eq rfl (encXKK_eq_ofNat 0x6 x kk),
    spells_of_encode_eq rfl (encXKK_eq_ofNat 0x7 x kk), ?ld, ?add⟩
  case ld =>
    exact ⟨_, exec_ldImm x kk s, s.writeReg_onlyRegs x kk, rfl, s.reg_writeReg_self x kk⟩
  case add =>
    refine ⟨_, exec_addImm x kk s, s.writeReg_onlyRegs x _, rfl, ?_⟩
    rw [State.reg_writeReg_self, BitVec.toNat_add]

end Sys2Proof
end

section
/-! PROOFS. The index register and the memory instructions (43_index_memory.md): the words of family
F (R62, R64), what an index write and a store from I on do, and the six instructions LD I, ADD I,
LD F, LD B, LD [I], Vx and LD Vx, [I] (R120 to R125). -/

namespace Sys2Proof

/-- Format XS with the sub-selector in the fixed part of the word. -/
theorem encXS_eq_ofNat_selector_first (op : Nat) (x : Reg) (sub : Nat) :
    encXS op x sub = BitVec.ofNat 16 (0x1000 * op + sub + 0x100 * x.val) := by
  rw [encXS]
  congr 1
  omega

namespace Machine

/-- The words of family F: `sub` is the sub-selector. -/
theorem spells_familyF {i : Instr} {x : Reg} (sub : Nat) (hwf : i.wellFormed = true)
    (henc : encode i = encXS 0xF x sub) : Spells (0xF000 + sub + 0x100 * x.val) i :=
  spells_of_encode_eq hwf (henc.trans (encXS_eq_ofNat_selector_first 0xF x sub))

/-! ## An index write (R120 to R122) -/

/-- What an instruction that writes the value `n` to `I` and advances does. -/
theorem effect_of_exec_eq_setI {i : Instr} {s : State} {a : Word} {n : Nat}
    (hexec : exec i s = .next (s.setI a).advance) (hval : a.toNat = n) :
    ∃ t, exec i s = .next t ∧ t.I.toNat = n ∧ t.pc = s.pc + 2 ∧
      RegsExcept [] s t ∧ BytesKept s t ∧ t = { s with I := t.I, pc := t.pc } :=
  ⟨_, hexec, hval, rfl, regsExcept_of_V_eq rfl, bytesKept_of_mem_eq rfl, rfl⟩

theorem add_byteWord_toNat (a : Word) (b : Byte) :
    (a + byteWord b).toNat = (a.toNat + b.toNat) % 65536 := by
  rw [BitVec.toNat_add, byteWord_toNat]

/-- The product is at most 5 · 255, so it fits a word. -/
theorem glyphAddress_toNat (b : Byte) :
    (BitVec.ofNat 16 (Config.glyphBytes * b.toNat)).toNat = 5 * b.toNat := by
  have hb := b.isLt
  rw [Config.glyphBytes, BitVec.toNat_ofNat]
  omega

/-! ## A store from `I` on (R48) -/

/-- What an instruction that stores a list of at most 4096 bytes from `I` on does. -/
theorem effect_of_exec_eq_storeAtI {i : Instr} {s : State} {bs : List Byte}
    (hexec : exec i s = .next (s.storeAtI bs)) (hmem : s.mem.wf = true)
    (hlen : bs.length ≤ 4096) :
    ∃ t, exec i s = .next t ∧ t.pc = s.pc + 2 ∧
      (∀ k (hk : k < bs.length), t.mem.read (s.dataBase + k) = bs[k]) ∧
      RegsExcept [] s t ∧ BytesExcept s.dataBase bs.length s t ∧
      t = { s with mem := t.mem, pc := t.pc } :=
  ⟨_, hexec, rfl, fun _ hk => Memory.read_store_inside hk hmem hlen, regsExcept_of_V_eq rfl,
    fun _ hout => Memory.read_store_outside hmem hout, rfl⟩

/-! ## The stored bytes (R123, R124) -/

theorem decimalDigits_eq (v : Byte) : ∃ hundreds tens ones : Byte,
    decimalDigits v = [hundreds, tens, ones] ∧ hundreds.toNat = v.toNat / 100 ∧
      tens.toNat = v.toNat / 10 % 10 ∧ ones.toNat = v.toNat % 10 := by
  have hv := v.isLt
  refine ⟨_, _, _, rfl, ?_, ?_, ?_⟩ <;> rw [BitVec.toNat_ofNat] <;> omega

@[simp] theorem State.length_regsUpTo (s : State) (x : Reg) :
    (s.regsUpTo x).length = x.val + 1 := by
  have hx := x.isLt
  rw [State.regsUpTo, List.length_take, Vector.length_toList]
  omega

theorem State.getElem_regsUpTo {s : State} {x r : Reg} (hr : r.val < (s.regsUpTo x).length) :
    (s.regsUpTo x)[r.val] = s.reg r := by
  simp [State.regsUpTo, State.reg]

/-! ## What each instruction does (R120 to R125) -/

section Exec

variable (x : Reg) (nnn : Addr12) (s : State)

theorem exec_ldI : exec (.ldI nnn) s = .next (s.setI (addrWord nnn)).advance := rfl

theorem exec_addI : exec (.addI x) s = .next (s.setI (s.I + byteWord (s.reg x))).advance := rfl

theorem exec_ldF : exec (.ldF x) s =
    .next (s.setI (BitVec.ofNat 16 (Config.glyphBytes * (s.reg x).toNat))).advance := rfl

theorem exec_ldB : exec (.ldB x) s = .next (s.storeAtI (decimalDigits (s.reg x))) := rfl

theorem exec_storeRegs : exec (.storeRegs x) s = .next (s.storeAtI (s.regsUpTo x)) := rfl

theorem exec_loadRegs :
    exec (.loadRegs x) s = .next (s.loadRegsFrom s.dataBase x).advance := rfl

end Exec

end Machine

open Machine

/-! ## The obligations -/

/-- Settles O33: each of the three is one index write, of the zero-extended address, of the sum and
of the glyph's address. -/
theorem indexRegisterWrites : Obligations.IndexRegisterWrites := by
  intro x nnn s
  refine ⟨spells_of_encode_eq rfl rfl, spells_familyF 0x1E rfl rfl, spells_familyF 0x29 rfl rfl,
    ?ldI, ?addI, ?ldF⟩
  case ldI => exact effect_of_exec_eq_setI (exec_ldI nnn s) (addrWord_toNat nnn)
  case addI => exact effect_of_exec_eq_setI (exec_addI x s) (add_byteWord_toNat s.I (s.reg x))
  case ldF => exact effect_of_exec_eq_setI (exec_ldF x s) (glyphAddress_toNat (s.reg x))

/-- Settles O34: one store of the list of the three digits, read back at its indices 0, 1 and 2. -/
theorem decimalDigitsAreStoredAtI : Obligations.DecimalDigitsAreStoredAtI := by
  intro x s hmem
  obtain ⟨hundreds, tens, ones, hdigits, hhundreds, htens, hones⟩ := decimalDigits_eq (s.reg x)
  have hstore : exec (.ldB x) s = .next (s.storeAtI [hundreds, tens, ones]) :=
    hdigits ▸ exec_ldB x s
  obtain ⟨t, hexec, hpc, hread, hregs, hbytes, hrest⟩ :=
    effect_of_exec_eq_storeAtI hstore hmem (by simp)
  refine ⟨spells_familyF 0x33 rfl rfl, t, hexec, hpc, ?hundreds, ?tens, ?ones, rfl, hregs, hbytes,
    hrest⟩
  case hundreds => exact (congrArg BitVec.toNat (hread 0 (by simp))).trans hhundreds
  case tens => exact (congrArg BitVec.toNat (hread 1 (by simp))).trans htens
  case ones => exact (congrArg BitVec.toNat (hread 2 (by simp))).trans hones

/-- Settles O35: one store of the list of V0 to Vx, which holds Vr at index `r` and has `x + 1`
entries. -/
theorem registersAreStoredAtI : Obligations.RegistersAreStoredAtI := by
  intro x s hmem
  have hlen := s.length_regsUpTo x
  obtain ⟨t, hexec, hpc, hread, hregs, hbytes, hrest⟩ :=
    effect_of_exec_eq_storeAtI (exec_storeRegs x s) hmem (by omega)
  refine ⟨spells_familyF 0x55 rfl rfl, t, hexec, hpc, fun r hr => ?stored, rfl, hregs,
    hlen ▸ hbytes, hrest⟩
  case stored =>
    have hindex : r.val < (s.regsUpTo x).length := (Nat.lt_succ_of_le hr).trans_eq hlen.symm
    rw [hread r.val hindex, State.getElem_regsUpTo]

/-- Settles O36: register by register, `State.reg_loadRegsFrom` on each side of `x`. -/
theorem registersAreLoadedFromI : Obligations.RegistersAreLoadedFromI := by
  intro x s
  refine ⟨spells_familyF 0x65 rfl rfl, _, exec_loadRegs x s, rfl, fun r hr => ?loaded,
    fun r hr => ?kept, bytesKept_of_mem_eq rfl, rfl⟩
  case loaded => rw [State.advance_reg, State.reg_loadRegsFrom, if_pos hr, State.dataBase]
  case kept => rw [State.advance_reg, State.reg_loadRegsFrom, if_neg hr.not_ge]

end Sys2Proof
end

section
/-! PROOFS. The random and the timer instructions (44_random_timers.md): what a draw takes from the
random port and that no other instruction takes from it (R130), the decay of a timer (R132), and the
instructions RND, LD Vx, DT, LD DT, Vx and LD ST, Vx (R130, R135 to R137). -/

namespace Sys2Proof.Machine

/-! ## A draw from the random port (R20, R24) -/

theorem State.drawRand_nil {s : State} (h : s.randPort = []) :
    s.drawRand = (Config.freeByte s.freeCount, { s with freeCount := s.freeCount + 1 }) := by
  rw [State.drawRand, h]

theorem State.drawRand_randPort (s : State) : s.drawRand.2.randPort = s.randPort.tail := by
  cases h : s.randPort with
  | nil => rw [State.drawRand_nil h, h, List.tail_nil]
  | cons b bs => rw [State.drawRand_cons h, List.tail_cons]

/-! ## Whole intervals and decay (R132) -/

/-- The guard of `Timer.ticks` is the truncation of the subtraction: a clock at or before the last
decrement gives the difference 0. -/
theorem Timer.ticks_eq_div (interval now : Nat) (t : Timer) :
    t.ticks interval now = (now - t.last) / interval := by
  by_cases h : t.last < now
  · rw [Timer.ticks, if_pos h]
  · rw [Timer.ticks, if_neg h, Nat.sub_eq_zero_of_le (Nat.not_lt.mp h), Nat.zero_div]

/-- The count of whole intervals as R132 states it. -/
theorem Timer.ticks_eq_ite (interval now : Nat) (t : Timer) :
    t.ticks interval now = if t.last ≤ now then (now - t.last) / interval else 0 := by
  rw [Timer.ticks_eq_div]
  split
  case isTrue => rfl
  case isFalse h => rw [Nat.sub_eq_zero_of_le (Nat.le_of_not_ge h), Nat.zero_div]

/-- Decay leaves no whole interval: the timestamp has advanced by all of them. -/
theorem Timer.ticks_decay_self (interval now : Nat) (t : Timer) :
    (t.decay interval now).ticks interval now = 0 := by
  rw [Timer.ticks_eq_div, Timer.decay_last, Nat.sub_add_eq, Nat.mul_comm, Nat.sub_mul_div,
    ← Timer.ticks_eq_div, Nat.sub_self]

theorem Timer.decay_decay_self (interval now : Nat) (t : Timer) :
    (t.decay interval now).decay interval now = t.decay interval now :=
  Timer.decay_of_ticks_zero (t.ticks_decay_self interval now)

/-! ## What each instruction does (R130, R135 to R137, R163) -/

section Exec

variable (x : Reg) (kk : Byte) (s : State)

theorem exec_rnd :
    exec (.rnd x kk) s = .next (s.drawRand.2.writeReg x (s.drawRand.1 &&& kk)) := rfl

theorem exec_ldVxDT :
    exec (.ldVxDT x) s = .next (s.decayDT.writeReg x s.decayDT.DT.count) := rfl

theorem exec_ldDTVx :
    exec (.ldDTVx x) s = .next { s with DT := ⟨s.reg x, s.now⟩, pc := s.pc + 2 } := rfl

theorem exec_ldSTVx :
    exec (.ldSTVx x) s = .next { s with ST := ⟨s.reg x, s.now⟩, pc := s.pc + 2 } := rfl

variable {s}

theorem exec_ldVxK_idle (h : s.kstate = .idle) :
    exec (.ldVxK x) s = .next { s with kstate := .waiting } := by
  rw [exec, execLdVxK, h]

theorem exec_ldVxK_waiting_empty (hwait : s.kstate = .waiting) (hlatch : s.latch = none) :
    exec (.ldVxK x) s = .next s := by
  rw [exec, execLdVxK, hwait, hlatch]

theorem exec_ldVxK_waiting_latched {k : Key} (hwait : s.kstate = .waiting)
    (hlatch : s.latch = some k) :
    exec (.ldVxK x) s =
      .next ({ s with latch := none, kstate := .idle }.writeReg x (keyByte k)) := by
  rw [exec, execLdVxK, hwait, hlatch]

end Exec

/-! ## Who draws (R130) -/

/-- Only RND draws: any other instruction leaves the random port and the counter of free values.
CALL, RET and LD Vx, K have several outcomes; each other instruction has one. -/
theorem exec_keeps_random_source {i : Instr} {s t : State} (h : exec i s = .next t)
    (hrnd : ∀ x kk, i ≠ .rnd x kk) : t.randPort = s.randPort ∧ t.freeCount = s.freeCount := by
  cases i
  case rnd x kk => exact absurd rfl (hrnd x kk)
  case call nnn =>
    obtain hroom | hfull := Nat.lt_or_ge s.stack.length 16
    · cases (exec_call_room nnn hroom).symm.trans h
      exact ⟨rfl, rfl⟩
    · cases (exec_call_full nnn hfull).symm.trans h
      exact ⟨rfl, rfl⟩
  case ret =>
    obtain hempty | ⟨below, a, htop⟩ := s.stack.eq_nil_or_concat'
    · cases (exec_ret_empty hempty).symm.trans h
      exact ⟨rfl, rfl⟩
    · cases (exec_ret_concat htop).symm.trans h
      exact ⟨rfl, rfl⟩
  case ldVxK x =>
    cases hk : s.kstate with
    | idle =>
      cases (exec_ldVxK_idle x hk).symm.trans h
      exact ⟨rfl, rfl⟩
    | waiting =>
      cases hlatch : s.latch with
      | none =>
        cases (exec_ldVxK_waiting_empty x hk hlatch).symm.trans h
        exact ⟨rfl, rfl⟩
      | some k =>
        cases (exec_ldVxK_waiting_latched x hk hlatch).symm.trans h
        exact ⟨rfl, rfl⟩
  all_goals
    cases h
    exact ⟨rfl, rfl⟩

end Sys2Proof.Machine

namespace Sys2Proof

open Machine

/-! ## The obligations -/

/-- Settles O39: `exec_keeps_random_source` for the other instructions; RND is one draw, which takes
the head of the port, and one register write. -/
theorem randomByteIsMasked : Obligations.RandomByteIsMasked := by
  refine ⟨fun i s t hexec hport => ?onlyRnd, fun x kk s => ?rnd⟩
  case onlyRnd =>
    by_contra hrnd
    have hne : ∀ x kk, i ≠ .rnd x kk := fun x kk hi => hrnd ⟨x, kk, hi⟩
    exact hport (exec_keeps_random_source hexec hne).1
  case rnd =>
    have hbyte := s.drawRand_fst
    have htail := s.drawRand_randPort
    have hexec := exec_rnd x kk s
    obtain ⟨port, n, hdraw⟩ := s.drawRand_frame
    rw [hdraw] at htail hexec
    obtain ⟨hregs, hbytes, -⟩ := State.writeReg_onlyRegs
      { s with randPort := port, freeCount := n } x (s.drawRand.1 &&& kk)
    refine ⟨spells_of_encode_eq rfl (encXKK_eq_ofNat 0xC x kk), _, _, hexec, rfl,
      State.reg_writeReg_self _ x _, fun b bs hport => ?taken, fun hport => ?empty, hregs, hbytes,
      rfl⟩
    case taken =>
      rw [hport] at hbyte htail
      exact ⟨hbyte, htail⟩
    case empty =>
      rw [hport] at htail
      exact htail

/-- Settles O40: `k` is `Timer.ticks`, and decay leaves none of them for a second one. -/
theorem decayTakesOffWholeIntervals : Obligations.DecayTakesOffWholeIntervals := by
  refine ⟨Nat.succ_pos _, fun t now k hk => ?_⟩
  obtain rfl : k = t.ticks Config.tickInterval now := hk.trans (t.ticks_eq_ite _ now).symm
  refine ⟨Timer.decay_of_ticks_zero, fun _ => ⟨?count, t.decay_last⟩, t.decay_decay_self _ now⟩
  case count =>
    rw [t.decay_count]
    omega

/-- Settles O43: one register write of the decayed count in the state with the delay timer decayed. -/
theorem delayTimerRead : Obligations.DelayTimerRead := by
  intro x s
  obtain ⟨hregs, hbytes, -⟩ := s.decayDT.writeReg_onlyRegs x s.decayDT.DT.count
  exact ⟨spells_familyF 0x07 rfl rfl, _, exec_ldVxDT x s, rfl, rfl, State.reg_writeReg_self _ x _,
    hregs, hbytes, rfl⟩

/-- Settles O44: each of the two replaces one timer and advances. -/
theorem timerLoads : Obligations.TimerLoads := by
  intro x s
  refine ⟨spells_familyF 0x15 rfl rfl, spells_familyF 0x18 rfl rfl, ?delay, ?sound⟩
  case delay =>
    exact ⟨_, exec_ldDTVx x s, rfl, rfl, rfl, regsExcept_of_V_eq rfl, bytesKept_of_mem_eq rfl, rfl⟩
  case sound =>
    exact ⟨_, exec_ldSTVx x s, rfl, rfl, rfl, regsExcept_of_V_eq rfl, bytesKept_of_mem_eq rfl, rfl⟩

end Sys2Proof
end

section
/-! PROOFS. The display (45_display.md): the sprite engine's two results in terms of `SpriteLights`
(R151), and the instructions CLS and DRW (R152, R153). -/

namespace Sys2Proof.Machine

/-! ## The sprite engine (R151) -/

section SpriteEngine

variable {m : Memory} {x0 y0 : Byte} {addr : Word} {n idx : Nat}

theorem SpriteLights.lt (h : SpriteLights m x0 y0 addr n idx) : idx < 2048 := by
  obtain ⟨row, hrow, col, hcol, rfl, hbit⟩ := h
  exact Nat.mod_lt _ (by decide)

/-- The lit entries of the list the engine's loop runs over are the cells the rule lights. -/
theorem mem_spriteCells_load_iff_spriteLights :
    (idx, true) ∈ spriteCells x0.toNat y0.toNat 0 (m.load addr.toNat n) ↔
      SpriteLights m x0 y0 addr n idx := by
  simp only [mem_spriteCells, Memory.getElem_load, Memory.length_load, exists_prop, Nat.zero_add,
    Prod.mk.injEq, SpriteLights, eq_comm (a := true)]

variable (hn : n < 16) (fb : Framebuffer)
include hn

/-- The cells of a sprite are distinct, so the loop toggles each lit one once and judges collision
on the framebuffer it began with. -/
theorem sprite_cells_and_collision :
    (∀ j < 2048, (sprite m x0 y0 addr n fb).1.cell j = (fb.cell j !=
      decide ((j, true) ∈ spriteCells x0.toNat y0.toNat 0 (m.load addr.toNat n)))) ∧
    (sprite m x0 y0 addr n fb).2 =
      (spriteCells x0.toNat y0.toNat 0 (m.load addr.toNat n)).any fun e => e.2 && fb.cell e.1 := by
  have hlen : (m.load addr.toNat n).length ≤ 31 := by
    rw [Memory.length_load]
    omega
  exact foldl_drawCell _ fb false (spriteCells_nodup hlen) fun _ he => spriteCells_lt he

theorem cell_sprite_of_spriteLights (h : SpriteLights m x0 y0 addr n idx) :
    (sprite m x0 y0 addr n fb).1.cell idx = !fb.cell idx := by
  rw [(sprite_cells_and_collision hn fb).1 idx h.lt,
    decide_eq_true (mem_spriteCells_load_iff_spriteLights.2 h), Bool.bne_true]

theorem cell_sprite_of_not_spriteLights (hidx : idx < 2048)
    (h : ¬ SpriteLights m x0 y0 addr n idx) :
    (sprite m x0 y0 addr n fb).1.cell idx = fb.cell idx := by
  rw [(sprite_cells_and_collision hn fb).1 idx hidx,
    decide_eq_false (mt mem_spriteCells_load_iff_spriteLights.1 h), Bool.bne_false]

theorem sprite_collision_iff :
    (sprite m x0 y0 addr n fb).2 = true ↔
      ∃ idx < 2048, SpriteLights m x0 y0 addr n idx ∧ fb.cell idx = true := by
  rw [(sprite_cells_and_collision hn fb).2, List.any_eq_true]
  constructor
  · rintro ⟨⟨idx, bit⟩, hmem, hlit⟩
    obtain ⟨rfl, hcell⟩ : bit = true ∧ fb.cell idx = true := by simpa using hlit
    have hlights := mem_spriteCells_load_iff_spriteLights.1 hmem
    exact ⟨idx, hlights.lt, hlights, hcell⟩
  · rintro ⟨idx, -, hlights, hcell⟩
    exact ⟨(idx, true), mem_spriteCells_load_iff_spriteLights.2 hlights, hcell⟩

end SpriteEngine

/-! ## What CLS and DRW do (R152, R153) -/

section Exec

variable (s : State) (x y : Reg) (n : Nat)

theorem exec_cls :
    exec .cls s = .next { s with fb := Framebuffer.blank, dirty := true }.advance := rfl

theorem exec_drw : exec (.drw x y n) s =
    .next ({ s with fb := (s.drawn x y n).1, dirty := true }.setFlag
      (collisionFlag (s.drawn x y n).2)).advance := rfl

end Exec

theorem State.setFlag_regsExcept (s : State) (b : Byte) : RegsExcept [15] s (s.setFlag b) := by
  intro r hr
  have hflag : r ≠ Config.flagReg := List.ne_of_not_mem_cons hr
  rw [State.reg_setFlag, if_neg hflag]

theorem State.reg_setFlag_flag (s : State) (b : Byte) : (s.setFlag b).reg 15 = b :=
  (s.reg_setFlag 15 b).trans (if_pos rfl)

end Sys2Proof.Machine

namespace Sys2Proof

open Machine

/-! ## The obligations -/

/-- Settles O46: `s.drawn x y n` is the sprite engine's result on the state before the write of
`VF`; its cells and its collision bit are those of the rule. -/
theorem drawXorsTheSpriteAndReportsCollision :
    Obligations.DrawXorsTheSpriteAndReportsCollision := by
  intro x y n s hn
  have hspells : Spells (0xD000 + 0x100 * x.val + 0x10 * y.val + n) (.drw x y n) :=
    spells_of_encode_eq (decide_eq_true hn) (encXYN_eq_ofNat 0xD x y n)
  have hflag := State.reg_setFlag_flag { s with fb := (s.drawn x y n).1, dirty := true }
    (collisionFlag (s.drawn x y n).2)
  refine ⟨hspells, _, exec_drw s x y n, rfl, rfl,
    fun _ _ h => cell_sprite_of_spriteLights hn s.fb h,
    fun _ hidx h => cell_sprite_of_not_spriteLights hn s.fb hidx h,
    fun hlit => ?collision, fun hunlit => ?noCollision, ?regs, bytesKept_of_mem_eq rfl, rfl⟩
  case collision =>
    have hcoll : (s.drawn x y n).2 = true := (sprite_collision_iff hn s.fb).2 hlit
    exact hflag.trans (congrArg collisionFlag hcoll)
  case noCollision =>
    have hcoll : (s.drawn x y n).2 = false := by
      rw [← Bool.not_eq_true, State.drawn, sprite_collision_iff hn s.fb]
      rintro ⟨idx, hidx, hlights, hcell⟩
      exact Bool.false_ne_true ((hunlit idx hidx hlights).symm.trans hcell)
    exact hflag.trans (congrArg collisionFlag hcoll)
  case regs => exact State.setFlag_regsExcept { s with fb := _, dirty := true } _

/-- Settles O45: the new framebuffer is the blank one. -/
theorem clearTurnsEveryCellOff : Obligations.ClearTurnsEveryCellOff := by
  intro s
  exact ⟨spells_cls, fun _ hm => decodeWord?_cls_any_nibble hm, _, exec_cls s, rfl,
    fun idx _ => Framebuffer.cell_blank idx, rfl, regsExcept_of_V_eq rfl, bytesKept_of_mem_eq rfl,
    rfl⟩

end Sys2Proof
end

section
/-! PROOFS. The keypad (46_keypad.md): the key flags after a write, the key events (R164 to R166), the
key a register selects (R160), and the instructions SKP, SKNP and LD Vx, K (R161 to R163). -/

namespace Sys2Proof.Machine

/-! ## The key flags after a write of one (R18) -/

section SetKey

variable (s : State) {j k : Key} (b : Bool)

theorem State.setKey_keys_self : (s.setKey k b).keys[k] = b :=
  Vector.getElem_set_self k.isLt

theorem State.setKey_keys_ne (h : j ≠ k) : (s.setKey k b).keys[j] = s.keys[j] :=
  Vector.getElem_set_ne k.isLt j.isLt fun hval => h (Fin.ext hval.symm)

end SetKey

/-! ## Key events, with a code in range and out of range (R164 to R166) -/

section KeyEvents

variable (s : State) {c : Int}

theorem State.applyEvent_keyDown (k : Key) :
    s.applyEvent (.keyDown (k.val : Int)) = s.pressKey k := by
  rw [State.applyEvent, keyOfCode_natCast]

theorem State.applyEvent_keyUp (k : Key) :
    s.applyEvent (.keyUp (k.val : Int)) = s.setKey k false := by
  rw [State.applyEvent, keyOfCode_natCast]

theorem State.applyEvent_keyDown_out (h : c < 0 ∨ 15 < c) :
    s.applyEvent (.keyDown c) = s.emit (.keyCodeRange c) := by
  rw [State.applyEvent, keyOfCode_out h]

theorem State.applyEvent_keyUp_out (h : c < 0 ∨ 15 < c) :
    s.applyEvent (.keyUp c) = s.emit (.keyCodeRange c) := by
  rw [State.applyEvent, keyOfCode_out h]

theorem State.pressKey_latch_waiting {s : State} (k : Key) (h : s.kstate = .waiting) :
    (s.pressKey k).latch = some k := by
  rw [State.pressKey_latch, if_pos h]

theorem State.pressKey_latch_idle {s : State} (k : Key) (h : s.kstate = .idle) :
    (s.pressKey k).latch = s.latch := by
  rw [State.pressKey_latch, if_neg (by simp [h])]

end KeyEvents

/-! ## The key a register selects and the value a key loads (R160, R163) -/

theorem State.keyDownAt_eq_of_toNat_mod {s : State} {x : Reg} {k : Key}
    (h : (s.reg x).toNat % 16 = k.val) : s.keyDownAt x = s.keys[k] := by
  obtain rfl : keyOf (s.reg x) = k := Fin.ext h
  rfl

theorem keyByte_toNat (k : Key) : (keyByte k).toNat = k.val := by
  rw [keyByte, BitVec.toNat_ofNat]
  omega

/-! ## SKP and SKNP (R161, R162) -/

/-- The words of family E: `sub` is the sub-selector. -/
theorem spells_familyE {i : Instr} {x : Reg} (sub : Nat) (hwf : i.wellFormed = true)
    (henc : encode i = encXS 0xE x sub) : Spells (0xE000 + sub + 0x100 * x.val) i :=
  spells_of_encode_eq hwf (henc.trans (encXS_eq_ofNat_selector_first 0xE x sub))

section Exec

variable (x : Reg) (s : State)

theorem exec_skp : exec (.skp x) s = .next (s.skipIf (s.keyDownAt x)) := rfl

theorem exec_sknp : exec (.sknp x) s = .next (s.skipIf (!s.keyDownAt x)) := rfl

end Exec

end Sys2Proof.Machine

namespace Sys2Proof

open Machine

/-! ## The obligations -/

/-- Settles O12: keyDown of a key is `pressKey`, whose latch depends on the key-read state. -/
theorem keyDownSetsTheFlagAndFeedsTheWait : Obligations.KeyDownSetsTheFlagAndFeedsTheWait := by
  intro s k
  exact ⟨_, s.applyEvent_keyDown k, rfl, s.setKey_keys_self true,
    fun _ hne => s.setKey_keys_ne true hne, State.pressKey_latch_waiting k,
    State.pressKey_latch_idle k⟩

/-- Settles O13: keyUp of a key is one write of its flag. -/
theorem keyUpClearsTheFlagAlone : Obligations.KeyUpClearsTheFlagAlone := by
  intro s k
  exact ⟨_, s.applyEvent_keyUp k, rfl, s.setKey_keys_self false,
    fun _ hne => s.setKey_keys_ne false hne⟩

/-- Settles O14: such a code names no key, so each of the two events is one emission. -/
theorem outOfRangeKeyCodeIsLoggedAndIgnored : Obligations.OutOfRangeKeyCodeIsLoggedAndIgnored :=
  fun s _ hout => ⟨s.applyEvent_keyDown_out hout, s.applyEvent_keyUp_out hout⟩

/-- Settles O25: each of the two is one skip on the flag of the selected key, SKNP on its negation. -/
theorem skipOnKey : Obligations.SkipOnKey := by
  intro x s k hk
  have hflag : s.keyDownAt x = s.keys[k] := State.keyDownAt_eq_of_toNat_mod hk
  refine ⟨spells_familyE 0x9E rfl rfl, spells_familyE 0xA1 rfl rfl, ?skp, ?sknp⟩
  case skp => exact skips_of_exec_eq_skipIf (exec_skp x s) hflag.trans hflag.trans
  case sknp =>
    exact skips_of_exec_eq_skipIf (exec_sknp x s)
      (fun hup => congrArg not (hflag.trans hup)) (fun hdown => congrArg not (hflag.trans hdown))

/-- Settles O48: one case per key-read state and latch; the last is a register write in the state
with the latch emptied and the wait ended. -/
theorem keyReadStateMachine : Obligations.KeyReadStateMachine := by
  intro x s
  refine ⟨spells_familyF 0x0A rfl rfl, exec_ldVxK_idle x, exec_ldVxK_waiting_empty x,
    fun k hwait hlatch => ?latched⟩
  case latched =>
    obtain ⟨hregs, hbytes, -⟩ :=
      State.writeReg_onlyRegs { s with latch := none, kstate := .idle } x (keyByte k)
    refine ⟨_, exec_ldVxK_waiting_latched x hwait hlatch, ?value, rfl, rfl, rfl, hregs, hbytes, rfl⟩
    case value => rw [State.reg_writeReg_self, keyByte_toNat]

end Sys2Proof
end

section
/-! PROOFS. The scheduler cycle (60_exceptions.md): the timers and the record before the executor, the
pause bit (R182) and the render notification (R184). -/

namespace Sys2Proof.Machine

/-! ## Before the executor (R179 steps 1 to 3): the timers and the record -/

section BeforeExec

variable (s : State)

@[simp] theorem State.poll_DT : s.poll.DT = s.DT := by
  obtain ⟨_, _, h⟩ := s.poll_frame
  exact h.DT

@[simp] theorem State.poll_ST : s.poll.ST = s.ST := by
  obtain ⟨_, _, h⟩ := s.poll_frame
  exact h.ST

theorem State.beforeExec_DT :
    s.beforeExec.DT = s.DT.decay Config.tickInterval s.poll.now := by
  simp [State.beforeExec, State.decayTimers]

theorem State.beforeExec_ST :
    s.beforeExec.ST = s.ST.decay Config.tickInterval s.poll.now := by
  simp [State.beforeExec, State.decayTimers]

theorem State.beforeExec_emitted :
    s.beforeExec.emitted =
      if audioDue s.ST (s.ST.decay Config.tickInterval s.poll.now) then .audio :: s.poll.emitted
      else s.poll.emitted := by
  simp [State.beforeExec, State.decayTimers]

end BeforeExec

/-! ## The pause bit (R22, R182) -/

section Pause

variable {s : State}

theorem State.applyEvent_pause_of_paused (h : s.paused = true) : s.applyEvent .pause = s := by
  rw [State.applyEvent, ← h]

theorem State.applyEvent_resume_of_running (h : s.paused = false) : s.applyEvent .resume = s := by
  rw [State.applyEvent, ← h]

theorem State.applyEvent_paused_of_ne_resume {e : Event} (h : s.paused = true)
    (hne : e ≠ .resume) : (s.applyEvent e).paused = true := by
  cases e with
  | keyDown c => cases hk : keyOfCode c <;> simp [State.applyEvent, hk, h]
  | keyUp c => cases hk : keyOfCode c <;> simp [State.applyEvent, hk, h]
  | pause => rfl
  | resume => exact absurd rfl hne
  | stop => exact h

theorem step_of_paused (hfault : s.fault = none) (hstop : s.stopped = false)
    (hpaused : s.beforeExec.paused = true) : step s = .next s.beforeExec.render :=
  step_next.2 ⟨hfault, hstop, _, runUnlessPaused_paused hpaused, rfl⟩

end Pause

/-! ## What CALL, RET and LD Vx, K can answer (R80, R81, R163) -/

section Inversion

variable {s t : State}

theorem exec_call_next {nnn : Addr12} (h : exec (.call nnn) s = .next t) :
    t = { s with stack := s.stack ++ [s.pc], pc := addrWord nnn } ∨
    t = s.raise .stackOverflow := by
  obtain hroom | hfull := Nat.lt_or_ge s.stack.length 16
  · cases (exec_call_room nnn hroom).symm.trans h
    exact .inl rfl
  · cases (exec_call_full nnn hfull).symm.trans h
    exact .inr rfl

theorem exec_ret_next (h : exec .ret s = .next t) :
    (∃ below a, s.stack = below ++ [a] ∧ t = { s with stack := below, pc := a + 2 }) ∨
    t = s.raise .stackUnderflow := by
  obtain hempty | ⟨below, a, htop⟩ := s.stack.eq_nil_or_concat'
  · cases (exec_ret_empty hempty).symm.trans h
    exact .inr rfl
  · cases (exec_ret_concat htop).symm.trans h
    exact .inl ⟨below, a, htop, rfl⟩

theorem exec_ldVxK_next {x : Reg} (h : exec (.ldVxK x) s = .next t) :
    (s.kstate = .idle ∧ t = { s with kstate := .waiting }) ∨
    (s.kstate = .waiting ∧ s.latch = none ∧ t = s) ∨
    ∃ k, s.kstate = .waiting ∧ s.latch = some k ∧
      t = { s with latch := none, kstate := .idle }.writeReg x (keyByte k) := by
  cases hk : s.kstate with
  | idle =>
    cases (exec_ldVxK_idle x hk).symm.trans h
    exact .inl ⟨rfl, rfl⟩
  | waiting =>
    cases hlatch : s.latch with
    | none =>
      cases (exec_ldVxK_waiting_empty x hk hlatch).symm.trans h
      exact .inr (.inl ⟨rfl, rfl, rfl⟩)
    | some k =>
      cases (exec_ldVxK_waiting_latched x hk hlatch).symm.trans h
      exact .inr (.inr ⟨k, rfl, rfl, rfl⟩)

end Inversion

/-! ## The changed flag (R17): who touches the display, and that only the notification clears it -/

section Display

variable {s t : State}

/-- Every instruction but CLS and DRW leaves the framebuffer and the changed flag. -/
theorem exec_keeps_display {i : Instr} (h : exec i s = .next t) (hcls : i ≠ .cls)
    (hdrw : ∀ x y n, i ≠ .drw x y n) : t.fb = s.fb ∧ t.dirty = s.dirty := by
  cases i
  case cls => exact absurd rfl hcls
  case drw x y n => exact absurd rfl (hdrw x y n)
  case call nnn => obtain rfl | rfl := exec_call_next h <;> exact ⟨rfl, rfl⟩
  case ret => obtain ⟨_, _, _, rfl⟩ | rfl := exec_ret_next h <;> exact ⟨rfl, rfl⟩
  case ldVxK x =>
    obtain ⟨_, rfl⟩ | ⟨_, _, rfl⟩ | ⟨_, _, _, rfl⟩ := exec_ldVxK_next h <;> exact ⟨rfl, rfl⟩
  case rnd x kk =>
    obtain ⟨_, _, hdraw⟩ := s.drawRand_frame
    rw [exec_rnd, hdraw] at h
    cases h
    exact ⟨rfl, rfl⟩
  all_goals
    cases h
    exact ⟨rfl, rfl⟩

theorem exec_keeps_dirty_set {i : Instr} (h : exec i s = .next t) (hs : s.dirty = true) :
    t.dirty = true := by
  by_cases hcls : i = .cls
  · subst hcls
    cases (exec_cls s).symm.trans h
    rfl
  by_cases hdrw : ∃ x y n, i = .drw x y n
  · obtain ⟨x, y, n, rfl⟩ := hdrw
    cases (exec_drw s x y n).symm.trans h
    rfl
  · have hne : ∀ x y n, i ≠ .drw x y n := fun x y n hi => hdrw ⟨x, y, n, hi⟩
    exact (exec_keeps_display h hcls hne).2.trans hs

theorem invoke_keeps_dirty_set (h : invoke s = .next t) (hs : s.dirty = true) :
    t.dirty = true := by
  cases hi : decodeWord? s.fetchWord with
  | some i => exact exec_keeps_dirty_set ((invoke_of_decoded hi).symm.trans h) hs
  | none =>
    rw [invoke_of_unknown hi, execUnknown_eq] at h
    cases h
    exact hs

theorem runUnlessPaused_keeps_dirty_set (h : runUnlessPaused s = .next t) (hs : s.dirty = true) :
    t.dirty = true := by
  cases hp : s.paused with
  | true =>
    cases (runUnlessPaused_paused hp).symm.trans h
    exact hs
  | false => exact invoke_keeps_dirty_set ((runUnlessPaused_running hp).symm.trans h) hs

end Display

/-! ## The render notification (R184) -/

section Render

variable {s : State}

theorem State.render_emitted_of_dirty (h : s.dirty = true) :
    s.render.emitted = .render s.fb :: s.emitted := by
  rw [State.render_emitted, if_pos h]

theorem State.render_emitted_of_clean (h : s.dirty = false) : s.render.emitted = s.emitted := by
  rw [State.render_emitted, if_neg (by simp [h])]

end Render

end Sys2Proof.Machine

namespace Sys2Proof

open Machine

/-! ## The obligations -/

/-- Settles O10: a paused cycle is poll, decay and the render notification, and each event but
resume keeps the pause bit set. -/
theorem pauseFreezesTheExecutorAlone : Obligations.PauseFreezesTheExecutorAlone := by
  refine ⟨fun s hfault hstop hpaused => ?cycle, fun s => State.applyEvent_pause_of_paused,
    fun s => State.applyEvent_resume_of_running, fun s => rfl, fun s e hs hres => ?wakes⟩
  case cycle =>
    refine ⟨_, step_of_paused hfault hstop hpaused, s.beforeExec_reg, s.beforeExec_I,
      s.beforeExec_pc, s.beforeExec_stack, s.beforeExec_mem, s.beforeExec_fb, s.beforeExec_kstate,
      rfl, rfl, hpaused, rfl, s.beforeExec_DT, s.beforeExec_ST, rfl, ?emitted⟩
    case emitted =>
      rw [State.render_emitted, s.beforeExec_dirty, s.beforeExec_fb, s.beforeExec_emitted]
      split <;> split <;> rfl
  case wakes =>
    by_contra hne
    exact Bool.false_ne_true (hres.symm.trans (State.applyEvent_paused_of_ne_resume hs hne))

/-- Settles O11: every step ends in `State.render`, and nothing before it clears a set `dirty`. -/
theorem renderNotifiesOnceAndClearsDirty : Obligations.RenderNotifiesOnceAndClearsDirty := by
  refine ⟨fun s u hfault hstop hrun => ?notifies, fun s t hstep => ?clears,
    fun s t hs hstep => ?dirty, rfl⟩
  case notifies =>
    exact ⟨u.render, step_next.2 ⟨hfault, hstop, u, hrun, rfl⟩, rfl, State.render_emitted_of_dirty,
      State.render_emitted_of_clean⟩
  case clears =>
    obtain ⟨-, -, u, -, rfl⟩ := step_next.1 hstep
    exact u.render_dirty
  case dirty =>
    obtain ⟨-, -, u, hrun, rfl⟩ := step_next.1 hstep
    have hu : u.dirty = true :=
      runUnlessPaused_keeps_dirty_set hrun (s.beforeExec_dirty.trans hs)
    exact ⟨u.emitted, State.render_emitted_of_dirty hu⟩

end Sys2Proof
end

section
/-! PROOFS. Encoding (30_encoding.md): decoding undoes encoding, encoding undoes decoding up to the
ignored nibbles (R64, R65), and a word decodes exactly when it lies in a row of the table (R64). -/

namespace Sys2Proof

/-! ## Decoding the bytes of a word (R45) -/

theorem decode_bytesOfWord_append {w : Word} {i : Instr} (h : decodeWord? w = some i)
    (rest : List Byte) : decode (bytesOfWord w ++ rest) = .ok (i, rest) := by
  simp [bytesOfWord, decode, decodeWord, wordOfBytes_bytesOfWord, h]

/-! ## A word composed from its own fields (R61, R62) -/

section Compose

variable {w : Word} {op : Nat} (hop : opOf w = op)
include hop

theorem encNNN_nnnOf : encNNN op (nnnOf w) = w := by
  apply BitVec.eq_of_toNat_eq
  have hw := w.isLt
  simp only [encNNN, nnnOf, ← hop, opOf, bitField, BitVec.toNat_ofNat]
  omega

theorem encXKK_xOf_kkOf : encXKK op (xOf w) (kkOf w) = w := by
  apply BitVec.eq_of_toNat_eq
  have hw := w.isLt
  simp only [encXKK, xOf, kkOf, ← hop, opOf, bitField, BitVec.toNat_ofNat, Fin.ofNat]
  omega

theorem encXYN_xOf_yOf {n : Nat} (hn : nOf w = n) : encXYN op (xOf w) (yOf w) n = w := by
  apply BitVec.eq_of_toNat_eq
  have hw := w.isLt
  simp only [encXYN, xOf, yOf, ← hop, ← hn, opOf, nOf, bitField, BitVec.toNat_ofNat, Fin.ofNat]
  omega

theorem encXS_xOf {sub : Nat} (hsub : bitField w 0 8 = sub) : encXS op (xOf w) sub = w := by
  apply BitVec.eq_of_toNat_eq
  have hw := w.isLt
  simp only [encXS, xOf, ← hop, ← hsub, opOf, bitField, BitVec.toNat_ofNat, Fin.ofNat]
  omega

/-- The mask `FFF0` clears the low nibble, the one format XY does not spell. -/
theorem encXYN_xOf_yOf_zero : encXYN op (xOf w) (yOf w) 0 = w &&& 0xFFF0#16 := by
  have hmask : w &&& 0xFFF0#16 = w >>> 4 <<< 4 := by
    apply BitVec.eq_of_getLsbD_eq
    intro j hj
    interval_cases j <;> simp
  apply BitVec.eq_of_toNat_eq
  have hw := w.isLt
  simp only [hmask, encXYN, xOf, yOf, ← hop, opOf, bitField, BitVec.toNat_ofNat, Fin.ofNat,
    BitVec.toNat_shiftLeft, BitVec.toNat_ushiftRight, Nat.shiftLeft_eq, Nat.shiftRight_eq_div_pow]
  omega

end Compose

/-! ## Encoding what a word decodes to (R64, R65)

One lemma per family that has a second selector, then the family nibble. -/

/-- The instruction has an encoding, and that is the word on the bits the decoder reads. -/
def EncodesUsedBits (w : Word) (i : Instr) : Prop :=
  i.wellFormed = true ∧ encode i = w &&& Machine.usedBits i

section Families

variable {w : Word} {i : Instr}

/-- An instruction without ignored bits is encoded as the word itself. -/
theorem EncodesUsedBits.of_encode_eq (hwf : i.wellFormed = true)
    (hused : Machine.usedBits i = 0xFFFF#16) (henc : encode i = w) : EncodesUsedBits w i := by
  have hall : w &&& 0xFFFF#16 = w := BitVec.and_allOnes
  exact ⟨hwf, by rw [henc, hused, hall]⟩

/-- The row of family 0 has the used bits as its mask. -/
theorem encodesUsedBits_of_decodeFamily0 (hop : opOf w = 0x0) (h : decodeFamily0 w = some i) :
    EncodesUsedBits w i := by
  have hrow := inRowOf_of_decodeFamily0 hop h
  unfold decodeFamily0 at h
  split at h <;> cases h <;> exact ⟨rfl, hrow.symm⟩

theorem encodesUsedBits_of_decodeFamily8 (hop : opOf w = 0x8) (h : decodeFamily8 w = some i) :
    EncodesUsedBits w i := by
  unfold decodeFamily8 at h
  split at h <;> cases h <;> exact .of_encode_eq rfl rfl (encXYN_xOf_yOf hop ‹_›)

theorem encodesUsedBits_of_decodeFamilyE (hop : opOf w = 0xE) (h : decodeFamilyE w = some i) :
    EncodesUsedBits w i := by
  unfold decodeFamilyE at h
  split at h <;> cases h <;> exact .of_encode_eq rfl rfl (encXS_xOf hop ‹_›)

theorem encodesUsedBits_of_decodeFamilyF (hop : opOf w = 0xF) (h : decodeFamilyF w = some i) :
    EncodesUsedBits w i := by
  unfold decodeFamilyF at h
  split at h <;> cases h <;> exact .of_encode_eq rfl rfl (encXS_xOf hop ‹_›)

theorem encodesUsedBits_of_decodeWord? (h : decodeWord? w = some i) : EncodesUsedBits w i := by
  unfold decodeWord? at h
  split at h
  case h_1 hop => exact encodesUsedBits_of_decodeFamily0 hop h
  case h_9 hop => exact encodesUsedBits_of_decodeFamily8 hop h
  case h_15 hop => exact encodesUsedBits_of_decodeFamilyE hop h
  case h_16 hop => exact encodesUsedBits_of_decodeFamilyF hop h
  all_goals cases h
  case h_2 hop | h_3 hop | h_11 hop | h_12 hop => exact .of_encode_eq rfl rfl (encNNN_nnnOf hop)
  case h_4 hop | h_5 hop | h_7 hop | h_8 hop | h_13 hop =>
    exact .of_encode_eq rfl rfl (encXKK_xOf_kkOf hop)
  case h_6 hop | h_10 hop => exact ⟨rfl, encXYN_xOf_yOf_zero hop⟩
  case h_14 hop =>
    have hn : nOf w < 16 := Nat.mod_lt _ (by decide)
    exact .of_encode_eq (decide_eq_true hn) rfl (encXYN_xOf_yOf hop rfl)

end Families

/-! ## From a row of the table to what its words decode to (R64) -/

section Selectors

variable {w m : Word}

theorem opOf_of_and_F000 (h : w &&& 0xF000#16 = m) : opOf w = m.toNat / 0x1000 := by
  rw [← h, and_F000]
  omega

theorem selectors_of_and_F00F (h : w &&& 0xF00F#16 = m) :
    opOf w = m.toNat / 0x1000 ∧ nOf w = m.toNat % 0x1000 := by
  have hn : nOf w < 16 := Nat.mod_lt _ (by decide)
  rw [← h, and_F00F]
  omega

theorem selectors_of_and_F0FF (h : w &&& 0xF0FF#16 = m) :
    opOf w = m.toNat / 0x1000 ∧ bitField w 0 8 = m.toNat % 0x1000 := by
  have hsub : bitField w 0 8 < 256 := Nat.mod_lt _ (by decide)
  rw [← h, and_F0FF]
  omega

end Selectors

/-- Every word of an instruction's row decodes, to an instruction of that row: the row's mask fixes
the selectors the decoder reads. -/
theorem exists_decodeWord?_of_inRowOf {w : Word} {i : Instr} (h : InRowOf w i) :
    ∃ j, decodeWord? w = some j ∧ rowOf j = rowOf i := by
  cases i with
  | cls | ret =>
    obtain ⟨hop, hsub⟩ := selectors_of_and_F0FF h
    simp [decodeWord?, decodeFamily0, hop, hsub, rowOf]
  | ldReg | orReg | andReg | xorReg | addReg | subReg | shr | subnReg | shl =>
    obtain ⟨hop, hn⟩ := selectors_of_and_F00F h
    simp [decodeWord?, decodeFamily8, hop, hn, rowOf]
  | skp | sknp =>
    obtain ⟨hop, hsub⟩ := selectors_of_and_F0FF h
    simp [decodeWord?, decodeFamilyE, hop, hsub, rowOf]
  | ldVxDT | ldVxK | ldDTVx | ldSTVx | addI | ldF | ldB | storeRegs | loadRegs =>
    obtain ⟨hop, hsub⟩ := selectors_of_and_F0FF h
    simp [decodeWord?, decodeFamilyF, hop, hsub, rowOf]
  | _ =>
    have hop := opOf_of_and_F000 h
    simp [decodeWord?, hop, rowOf]

/-- One instruction of each row, in the table's order. -/
def rowInstrs : List Instr :=
  [.cls, .ret, .jp 0, .call 0, .seImm 0 0, .sneImm 0 0, .seReg 0 0, .ldImm 0 0, .addImm 0 0,
   .ldReg 0 0, .orReg 0 0, .andReg 0 0, .xorReg 0 0, .addReg 0 0, .subReg 0 0, .shr 0 0,
   .subnReg 0 0, .shl 0 0, .sneReg 0 0, .ldI 0, .jpV0 0, .rnd 0 0, .drw 0 0 0, .skp 0, .sknp 0,
   .ldVxDT 0, .ldVxK 0, .ldDTVx 0, .ldSTVx 0, .addI 0, .ldF 0, .ldB 0, .storeRegs 0, .loadRegs 0]

theorem tableRows_eq_map_rowOf : tableRows = rowInstrs.map rowOf := rfl

theorem exists_decodeWord?_of_row {w : Word} {r : Word × Word} (hr : r ∈ tableRows)
    (h : w &&& r.2 = r.1) : ∃ i, decodeWord? w = some i ∧ rowOf i = r := by
  rw [tableRows_eq_map_rowOf, List.mem_map] at hr
  obtain ⟨i, -, rfl⟩ := hr
  exact exists_decodeWord?_of_inRowOf h

/-! ## Disjoint rows (R64) -/

/-- A word of two rows has the fixed bits of both where both masks are set. -/
theorem fixed_bits_agree {w : Word} {r q : Word × Word} (hr : w &&& r.2 = r.1)
    (hq : w &&& q.2 = q.1) : r.1 &&& q.2 = q.1 &&& r.2 := by
  rw [← hr, ← hq, BitVec.and_assoc, BitVec.and_assoc, BitVec.and_comm r.2]

theorem tableRows_pairwise_disjoint :
    tableRows.Pairwise fun r q => ∀ w : Word, ¬ (w &&& r.2 = r.1 ∧ w &&& q.2 = q.1) := by
  have hfixed : tableRows.Pairwise fun r q => r.1 &&& q.2 ≠ q.1 &&& r.2 := by decide
  exact hfixed.imp fun hne _ hboth => hne (fixed_bits_agree hboth.1 hboth.2)

/-! ## The obligations -/

/-- Settles O1: the decoder reads two bytes as the word they make, and finds in an encoded word what
`encode` wrote there. -/
theorem decodeOfEncodeIsTheInstruction : Obligations.DecodeOfEncodeIsTheInstruction :=
  fun _ rest hwf => decode_bytesOfWord_append (decodeWord?_encode hwf) rest

/-- Settles O2: each format composes the word from the fields the decoder took from it. -/
theorem encodeOfDecodeClearsOnlyIgnoredBits : Obligations.EncodeOfDecodeClearsOnlyIgnoredBits :=
  fun _ _ h => encodesUsedBits_of_decodeWord? h

/-- Settles O3: a row fixes the selectors of the decoder's answer and the answer fixes the row; two
rows differ in a bit both fix. -/
theorem decodingFollowsTheTable : Obligations.DecodingFollowsTheTable := by
  refine ⟨rfl, tableRows_pairwise_disjoint,
    fun w i h => ⟨rowOf_mem_tableRows i, inRowOf_of_decodeWord? h⟩,
    fun w r hr h => exists_decodeWord?_of_row hr h, fun w hrow => ?unknown⟩
  case unknown =>
    refine ⟨firstByte w, secondByte w, ?_, (wordOfBytes_bytesOfWord w).symm⟩
    rw [decodeWord, decodeWord?_eq_none_of_no_row hrow]

/-- Settles O5: the decoder is run on each pair of bytes. -/
theorem sampleWordsDecode : Obligations.SampleWordsDecode :=
  ⟨rfl, rfl, rfl, rfl, rfl, rfl, rfl, rfl, rfl, rfl, rfl, rfl, rfl, rfl, rfl, rfl, rfl, rfl⟩

end Sys2Proof
end

section
/-! PROOFS. What an instruction may write (10_state.md section 12): one frame for every instruction,
the fault entries (R171, R172), the audio notification (R133) and the next-address (30_encoding.md
R67). -/

namespace Sys2Proof.Machine

/-! ## What CALL and RET can answer, with the case of the stack (R83, R84) -/

section Inversion

variable {s t : State}

theorem exec_call_cases {nnn : Addr12} (h : exec (.call nnn) s = .next t) :
    (s.stack.length < 16 ∧ t = { s with stack := s.stack ++ [s.pc], pc := addrWord nnn }) ∨
    (16 ≤ s.stack.length ∧ t = s.raise .stackOverflow) := by
  obtain hroom | hfull := Nat.lt_or_ge s.stack.length 16
  · cases (exec_call_room nnn hroom).symm.trans h
    exact .inl ⟨hroom, rfl⟩
  · cases (exec_call_full nnn hfull).symm.trans h
    exact .inr ⟨hfull, rfl⟩

theorem exec_ret_cases (h : exec .ret s = .next t) :
    (∃ below a, s.stack = below ++ [a] ∧ t = { s with stack := below, pc := a + 2 }) ∨
    (s.stack = [] ∧ t = s.raise .stackUnderflow) := by
  obtain hempty | ⟨below, a, htop⟩ := s.stack.eq_nil_or_concat'
  · cases (exec_ret_empty hempty).symm.trans h
    exact .inr ⟨hempty, rfl⟩
  · cases (exec_ret_concat htop).symm.trans h
    exact .inl ⟨below, a, htop, rfl⟩

end Inversion

/-! ## The frame of an instruction (10_state.md section 12) -/

/-- Each part of the state is kept, or the instruction is one of those listed for it. The parts are
kept where a proof of the frame does not say otherwise. -/
structure ExecFrame (i : Instr) (s t : State) : Prop where
  regs : RegsExcept i.writes s t
  index : t.I = s.I ∨ (∃ nnn, i = .ldI nnn) ∨ (∃ x, i = .addI x) ∨ (∃ x, i = .ldF x) := by
    exact .inl rfl
  stack : t.stack = s.stack ∨ (∃ nnn, i = .call nnn) ∨ i = .ret := by exact .inl rfl
  mem : t.mem = s.mem ∨ (∃ x, i = .ldB x) ∨ (∃ x, i = .storeRegs x) := by exact .inl rfl
  display : t.fb = s.fb ∧ t.dirty = s.dirty ∨ i = .cls ∨ (∃ x y n, i = .drw x y n) := by
    exact .inl ⟨rfl, rfl⟩
  keyRead : t.kstate = s.kstate ∧ t.latch = s.latch ∨ (∃ x, i = .ldVxK x) := by
    exact .inl ⟨rfl, rfl⟩
  delay : t.DT = s.DT ∨ (∃ x, i = .ldDTVx x) ∨ (∃ x, i = .ldVxDT x) := by exact .inl rfl
  sound : t.ST = s.ST ∨ (∃ x, i = .ldSTVx x) := by exact .inl rfl
  fault : t.fault = s.fault ∨ (∃ nnn, i = .call nnn) ∨ i = .ret := by exact .inl rfl
  emitted : t.emitted = s.emitted := by rfl
  environment : t.keys = s.keys ∧ t.paused = s.paused ∧ t.stopped = s.stopped ∧ t.now = s.now ∧
      t.pending = s.pending := by
    exact ⟨rfl, rfl, rfl, rfl, rfl⟩

section Frame

variable {i : Instr} {s t : State}

theorem ExecFrame.of_onlyRegs (h : OnlyRegs i.writes s t) : ExecFrame i s t := by
  obtain ⟨hregs, -, hrest⟩ := h
  rw [hrest] at hregs ⊢
  exact { regs := hregs }

theorem State.loadRegsFrom_regsExcept (base : Nat) (x : Reg) :
    RegsExcept (Instr.loadRegs x).writes s (s.loadRegsFrom base x).advance := by
  intro r hr
  have hgt : ¬ r ≤ x := by simpa [Instr.writes] using hr
  rw [State.advance_reg, State.reg_loadRegsFrom, if_neg hgt]

theorem exec_frame (h : exec i s = .next t) : ExecFrame i s t := by
  cases i with
  | call nnn =>
    obtain rfl | rfl := exec_call_next h
    all_goals
      exact { regs := regsExcept_of_V_eq rfl, stack := .inr (.inl ⟨_, rfl⟩)
              fault := .inr (.inl ⟨_, rfl⟩) }
  | ret =>
    obtain ⟨_, _, -, rfl⟩ | rfl := exec_ret_next h
    all_goals
      exact { regs := regsExcept_of_V_eq rfl, stack := .inr (.inr rfl), fault := .inr (.inr rfl) }
  | ldVxK x =>
    obtain ⟨-, rfl⟩ | ⟨-, -, rfl⟩ | ⟨k, -, -, rfl⟩ := exec_ldVxK_next h
    · exact { regs := regsExcept_of_V_eq rfl, keyRead := .inr ⟨_, rfl⟩ }
    · exact { regs := regsExcept_of_V_eq rfl }
    · have hwrite := State.writeReg_onlyRegs { s with latch := none, kstate := .idle } x (keyByte k)
      exact { regs := hwrite.regs, keyRead := .inr ⟨_, rfl⟩ }
  | rnd x kk =>
    obtain ⟨port, n, hdraw⟩ := s.drawRand_frame
    rw [exec_rnd, hdraw] at h
    cases h
    have hwrite := State.writeReg_onlyRegs { s with randPort := port, freeCount := n } x
      (s.drawRand.1 &&& kk)
    exact { regs := hwrite.regs }
  | ldVxDT x =>
    cases h
    have hwrite := State.writeReg_onlyRegs s.decayDT x s.decayDT.DT.count
    exact { regs := hwrite.regs, delay := .inr (.inr ⟨_, rfl⟩) }
  | loadRegs x => cases h; exact { regs := State.loadRegsFrom_regsExcept s.dataBase x }
  | drw x y n =>
    cases h
    have hflag := State.setFlag_regsExcept { s with fb := (s.drawn x y n).1, dirty := true }
      (collisionFlag (s.drawn x y n).2)
    exact { regs := hflag, display := .inr (.inr ⟨_, _, _, rfl⟩) }
  | cls => cases h; exact { regs := regsExcept_of_V_eq rfl, display := .inr (.inl rfl) }
  | ldI => cases h; exact { regs := regsExcept_of_V_eq rfl, index := .inr (.inl ⟨_, rfl⟩) }
  | addI => cases h; exact { regs := regsExcept_of_V_eq rfl, index := .inr (.inr (.inl ⟨_, rfl⟩)) }
  | ldF => cases h; exact { regs := regsExcept_of_V_eq rfl, index := .inr (.inr (.inr ⟨_, rfl⟩)) }
  | ldB => cases h; exact { regs := regsExcept_of_V_eq rfl, mem := .inr (.inl ⟨_, rfl⟩) }
  | storeRegs => cases h; exact { regs := regsExcept_of_V_eq rfl, mem := .inr (.inr ⟨_, rfl⟩) }
  | ldDTVx => cases h; exact { regs := regsExcept_of_V_eq rfl, delay := .inr (.inl ⟨_, rfl⟩) }
  | ldSTVx => cases h; exact { regs := regsExcept_of_V_eq rfl, sound := .inr ⟨_, rfl⟩ }
  | jp | jpV0 => cases h; exact .of_onlyRegs (s.jump_onlyRegs _)
  | seImm | sneImm | seReg | sneReg | skp | sknp =>
    cases h; exact .of_onlyRegs (s.skipIf_onlyRegs _)
  | ldImm | addImm | ldReg | orReg | andReg | xorReg =>
    cases h; exact .of_onlyRegs (s.writeReg_onlyRegs _ _)
  | addReg | subReg | shr | subnReg | shl =>
    cases h; exact .of_onlyRegs (s.writeRegFlag_onlyRegs _ _ _)

end Frame

/-! ## Fault entry (R171, R172) -/

section Fault

variable {i : Instr} {s t : State}

/-- An instruction that leaves another fault record than it found is CALL on a full stack or RET on
an empty one, and entering the fault is all it does. -/
theorem exec_fault_entry (h : exec i s = .next t) (hne : t.fault ≠ s.fault) :
    (∃ nnn, i = .call nnn ∧ 16 ≤ s.stack.length ∧ t = s.raise .stackOverflow) ∨
    (i = .ret ∧ s.stack = [] ∧ t = s.raise .stackUnderflow) := by
  obtain hkept | ⟨nnn, rfl⟩ | rfl := (exec_frame h).fault
  · exact absurd hkept hne
  · obtain ⟨-, rfl⟩ | ⟨hfull, rfl⟩ := exec_call_cases h
    · exact absurd rfl hne
    · exact .inl ⟨nnn, rfl, hfull, rfl⟩
  · obtain ⟨_, _, -, rfl⟩ | ⟨hempty, rfl⟩ := exec_ret_cases h
    · exact absurd rfl hne
    · exact .inr ⟨rfl, hempty, rfl⟩

end Fault

/-! ## The next-address (30_encoding.md R67) -/

section NextAddress

variable {i : Instr} {s t : State}

theorem exec_pc_of_not_replacesNext (h : exec i s = .next t) (hi : i.replacesNext = false) :
    t.pc = s.pc + 2 := by
  cases i with
  | rnd x kk =>
    obtain ⟨port, n, hdraw⟩ := s.drawRand_frame
    rw [exec_rnd, hdraw] at h
    cases h
    rfl
  | ret | jp | call | jpV0 | seImm | sneImm | seReg | sneReg | skp | sknp | ldVxK => cases hi
  | _ => cases h; rfl

theorem State.skipIf_pc_eq_or (s : State) (c : Bool) :
    (s.skipIf c).pc = s.pc + 2 ∨ (s.skipIf c).pc = s.pc + 4 := by
  cases c
  · exact .inl rfl
  · exact .inr rfl

theorem exec_ldVxK_pc {x : Reg} (h : exec (.ldVxK x) s = .next t) :
    t.pc = s.pc + 2 ∨ t.pc = s.pc := by
  obtain ⟨-, rfl⟩ | ⟨-, -, rfl⟩ | ⟨_, -, -, rfl⟩ := exec_ldVxK_next h
  · exact .inr rfl
  · exact .inr rfl
  · exact .inl rfl

end NextAddress

/-! ## The audio notification (R133) -/

theorem audioDue_iff {old new : Timer} :
    audioDue old new = true ↔ old.count ≠ 0 ∧ new.count = 0 := by
  rw [audioDue, Bool.and_eq_true, decide_eq_true_iff, decide_eq_true_iff]

end Sys2Proof.Machine

namespace Sys2Proof

open Machine

/-! ## The obligations -/

/-- Settles O52: the frame of the instruction, part by part, and `exec_keeps_random_source`. -/
theorem instructionsWriteOnlyWhatTheTableLists :
    Obligations.InstructionsWriteOnlyWhatTheTableLists := by
  intro i s t h
  obtain ⟨hregs, hindex, hstack, hmem, hdisplay, hkey, hdelay, hsound, -, -, henv⟩ := exec_frame h
  refine ⟨hregs, hindex.resolve_left, hstack.resolve_left, ?mem, ?display, ?keyRead,
    hdelay.resolve_left, hsound.resolve_left, ?random, henv⟩
  case mem =>
    rintro ⟨a, hne⟩
    exact hmem.resolve_left fun hkept => hne (congrArg (·.read a) hkept)
  case display =>
    intro hne
    exact hdisplay.resolve_left fun hkept => hne.elim (absurd hkept.1) (absurd hkept.2)
  case keyRead =>
    intro hne
    exact hkey.resolve_left fun hkept => hne.elim (absurd hkept.1) (absurd hkept.2)
  case random =>
    intro hne
    by_contra hrnd
    obtain ⟨hport, hcount⟩ := exec_keeps_random_source h fun x kk hi => hrnd ⟨x, kk, hi⟩
    exact hne.elim (absurd hport) (absurd hcount)

/-- Settles O53: six of the instructions with an address of their own are one skip, and the key read
holds the pc until it takes a key. -/
theorem defaultNextAddressIsPcPlusTwo : Obligations.DefaultNextAddressIsPcPlusTwo := by
  intro i s t h
  refine ⟨exec_pc_of_not_replacesNext h, ?immediate, ?registers, ?keys, ?keyRead⟩
  case immediate => rintro ⟨x, kk, rfl | rfl⟩ <;> cases h <;> exact s.skipIf_pc_eq_or _
  case registers => rintro ⟨x, y, rfl | rfl⟩ <;> cases h <;> exact s.skipIf_pc_eq_or _
  case keys => rintro ⟨x, rfl | rfl⟩ <;> cases h <;> exact s.skipIf_pc_eq_or _
  case keyRead =>
    rintro ⟨x, rfl⟩
    exact exec_ldVxK_pc h

/-- Settles O16: `exec_fault_entry`, and CALL on more than 16 entries is CALL on a full stack. -/
theorem onlyCallAndRetRaiseAndChangeNothingElse :
    Obligations.OnlyCallAndRetRaiseAndChangeNothingElse := by
  refine ⟨fun i s t hnone h hfault => ?entry, fun nnn s hmore => exec_call_full nnn hmore.le, rfl,
    rfl⟩
  case entry =>
    rw [← hnone] at hfault
    obtain ⟨nnn, rfl, hfull, rfl⟩ | ⟨rfl, hempty, rfl⟩ := exec_fault_entry h hfault
    · exact .inl ⟨nnn, rfl, hfull, rfl, rfl⟩
    · exact .inr ⟨rfl, hempty, rfl, rfl⟩

/-- Settles O42: the decay emits on `audioDue` alone, and the frame of an instruction keeps the
record of outputs. -/
theorem audioMarksTheSoundTimerRunningOut : Obligations.AudioMarksTheSoundTimerRunningOut := by
  refine ⟨fun s => ⟨fun hold hnew => ?runsOut, fun hold => ?stood, fun hnew => ?runs, rfl, rfl⟩,
    fun i s t h => (exec_frame h).emitted⟩
  case runsOut => exact if_pos (audioDue_iff.2 ⟨hold, hnew⟩)
  case stood => exact if_neg fun hdue => (audioDue_iff.1 hdue).1 hold
  case runs => exact if_neg fun hdue => hnew (audioDue_iff.1 hdue).2

/-- Settles O59: RND is one draw and one register write, and no other instruction draws. -/
theorem emptyRandomPortGivesAFreeByte : Obligations.EmptyRandomPortGivesAFreeByte := by
  refine ⟨fun x kk s => ⟨_, exec_rnd x kk s, fun b bs hport => ?full, fun hport => ?empty⟩,
    fun i s t h hne => ?onlyRnd⟩
  case full => rw [State.drawRand_cons hport, State.writeReg_freeCount]
  case empty =>
    rw [State.drawRand_nil hport]
    exact ⟨State.reg_writeReg_self _ x _, rfl⟩
  case onlyRnd =>
    have hrnd : ∃ x kk, i = .rnd x kk := by
      by_contra hno
      exact hne (exec_keeps_random_source h fun x kk hi => hno ⟨x, kk, hi⟩).2
    obtain ⟨x, kk, rfl⟩ := hrnd
    refine ⟨?_, x, kk, rfl⟩
    cases hport : s.randPort with
    | nil => rfl
    | cons b bs =>
      rw [exec_rnd, State.drawRand_cons hport] at h
      cases h
      exact absurd rfl hne

end Sys2Proof
end

section
/-! PROOFS. The step (60_exceptions.md R179): when it answers a next state and what it can be (R172,
R183), what the poll and the decay leave alone (R180, R181), the invariants every step keeps
(10_state.md R27; 46_keypad.md R163), and that the sound timer is not observed (R177). -/

namespace Sys2Proof.Machine

/-! ## When a cycle begins (R172, R179, R183) -/

section CycleBegins

variable {s : State}

theorem step_of_begins (hfault : s.fault = none) (hstop : s.stopped = false) :
    step s = finishCycle (runUnlessPaused s.beforeExec) := by
  simp [step, runCycle, hfault, hstop]

theorem step_of_running {i : Instr} (hfault : s.fault = none) (hstop : s.stopped = false)
    (hrunning : s.beforeExec.paused = false) (hi : decodeWord? s.fetchWord = some i) :
    step s = finishCycle (exec i s.beforeExec) := by
  rw [← s.beforeExec_fetchWord] at hi
  rw [step_of_begins hfault hstop, runUnlessPaused_running hrunning, invoke_of_decoded hi]

theorem step_of_fault {r : FaultRecord} (hfault : s.fault = some r) :
    step s = .fault (.halted r) := by
  rw [step, runCycle, hfault]

theorem step_of_stopped (hfault : s.fault = none) (hstop : s.stopped = true) :
    step s = .fault .stopped := by
  simp [step, runCycle, hfault, hstop]

end CycleBegins

/-! ## The executor answers a next state, one of three -/

section Executor

theorem exec_total (i : Instr) (s : State) : ∃ t, exec i s = .next t := by
  cases i with
  | call nnn =>
    obtain hroom | hfull := Nat.lt_or_ge s.stack.length 16
    · exact ⟨_, exec_call_room nnn hroom⟩
    · exact ⟨_, exec_call_full nnn hfull⟩
  | ret =>
    obtain hempty | ⟨below, a, htop⟩ := s.stack.eq_nil_or_concat'
    · exact ⟨_, exec_ret_empty hempty⟩
    · exact ⟨_, exec_ret_concat htop⟩
  | ldVxK x =>
    cases hk : s.kstate with
    | idle => exact ⟨_, exec_ldVxK_idle x hk⟩
    | waiting =>
      cases hlatch : s.latch with
      | none => exact ⟨_, exec_ldVxK_waiting_empty x hk hlatch⟩
      | some k => exact ⟨_, exec_ldVxK_waiting_latched x hk hlatch⟩
  | _ => exact ⟨_, rfl⟩

theorem runUnlessPaused_total (s : State) : ∃ u, runUnlessPaused s = .next u := by
  cases hp : s.paused with
  | true => exact ⟨s, runUnlessPaused_paused hp⟩
  | false =>
    rw [runUnlessPaused_running hp]
    cases hi : decodeWord? s.fetchWord with
    | some i => exact invoke_of_decoded hi ▸ exec_total i s
    | none => exact ⟨_, invoke_of_unknown hi⟩

/-- The executor's part of a cycle: none while paused, one instruction, or the no-op of a word
outside the table (R66). -/
theorem runUnlessPaused_next {s u : State} (h : runUnlessPaused s = .next u) :
    u = s ∨ (∃ i, decodeWord? s.fetchWord = some i ∧ exec i s = .next u) ∨
    decodeWord? s.fetchWord = none ∧ ∃ b0 b1,
      u = { s with pc := s.pc + 2, emitted := .unknownOpcode b0 b1 :: s.emitted } := by
  obtain hp | hp := Bool.eq_false_or_eq_true s.paused
  · cases (runUnlessPaused_paused hp).symm.trans h
    exact .inl rfl
  · rw [runUnlessPaused_running hp] at h
    cases hi : decodeWord? s.fetchWord with
    | some i => exact .inr (.inl ⟨i, rfl, (invoke_of_decoded hi).symm.trans h⟩)
    | none =>
      rw [invoke_of_unknown hi, execUnknown_eq] at h
      cases h
      exact .inr (.inr ⟨rfl, _, _, rfl⟩)

end Executor

/-! ## The poll (R180, R181) -/

section Poll

variable {s : State}

theorem State.poll_of_cons {c : CycleInput} {cs : List CycleInput} (h : s.pending = c :: cs) :
    s.poll = { s with pending := cs, now := c.now }.applyEvents c.events := by
  rw [State.poll, State.takeInput_cons h]

theorem State.poll_of_nil (h : s.pending = []) :
    s.poll = { s with
      now := s.now + Config.freeElapsed s.freeCount
      freeCount := s.freeCount + 1 }.applyEvents (Config.freeEvents s.freeCount) := by
  rw [State.poll, State.takeInput, h]

theorem State.poll_input_of_cons {c : CycleInput} {cs : List CycleInput}
    (h : s.pending = c :: cs) : s.poll.now = c.now ∧ s.poll.pending = cs := by
  have hframe := State.applyEvents_frame c.events { s with pending := cs, now := c.now }
  rw [State.poll_of_cons h]
  exact ⟨hframe.now, hframe.pending⟩

theorem State.poll_input_of_nil (h : s.pending = []) :
    s.now ≤ s.poll.now ∧ s.poll.pending = [] := by
  have hframe := State.applyEvents_frame (Config.freeEvents s.freeCount) { s with
    now := s.now + Config.freeElapsed s.freeCount
    freeCount := s.freeCount + 1 }
  rw [State.poll_of_nil h]
  exact ⟨hframe.now ▸ Nat.le_add_right _ _, hframe.pending.trans h⟩

theorem State.applyEvents_press_release (s : State) (k : Key) :
    s.applyEvents [.keyDown (k.val : Int), .keyUp (k.val : Int)] =
      (s.pressKey k).setKey k false := by
  rw [← State.applyEvent_keyUp, ← State.applyEvent_keyDown]
  rfl

end Poll

/-! ## A fault entered by a step (R172) -/

theorem step_enters_fault {s t : State} {r : FaultRecord} (h : step s = .next t)
    (hr : t.fault = some r) : ∃ c, t = (s.beforeExec.raise c).render := by
  obtain ⟨hnone, -, u, hrun, rfl⟩ := step_next.1 h
  have hne : u.fault ≠ s.beforeExec.fault := by
    rw [s.beforeExec_fault, hnone, ← u.render_fault, hr]
    exact Option.some_ne_none r
  obtain rfl | ⟨_, -, hexec⟩ | ⟨-, _, _, rfl⟩ := runUnlessPaused_next hrun
  · exact absurd rfl hne
  · obtain ⟨-, -, -, rfl⟩ | ⟨-, -, rfl⟩ := exec_fault_entry hexec hne
    · exact ⟨_, rfl⟩
    · exact ⟨_, rfl⟩
  · exact absurd rfl hne

/-! ## The invariant of R27 -/

section Invariant

variable {i : Instr} {s t : State}

theorem exec_keeps_mem_wf (h : exec i s = .next t) (hs : s.mem.wf = true) : t.mem.wf = true := by
  obtain hkept | ⟨x, rfl⟩ | ⟨x, rfl⟩ := (exec_frame h).mem
  · rwa [hkept]
  · cases h
    exact Memory.store_wf _ _ hs
  · cases h
    exact Memory.store_wf _ _ hs

/-- CALL pushes where there is room only. -/
theorem exec_keeps_stack_bound (h : exec i s = .next t) (hs : s.stack.length ≤ 16) :
    t.stack.length ≤ 16 := by
  obtain hkept | ⟨nnn, rfl⟩ | rfl := (exec_frame h).stack
  · rwa [hkept]
  · obtain ⟨hroom, rfl⟩ | ⟨-, rfl⟩ := exec_call_cases h
    · rw [List.length_append]
      exact hroom
    · exact hs
  · obtain ⟨below, a, htop, rfl⟩ | rfl := exec_ret_next h
    · rw [htop, List.length_append] at hs
      exact (Nat.le_add_right _ _).trans hs
    · exact hs

/-- The key read empties the latch when it ends the wait. -/
theorem exec_keeps_latch_in_wait (h : exec i s = .next t)
    (hs : ∀ k, s.latch = some k → s.kstate = .waiting) :
    ∀ k, t.latch = some k → t.kstate = .waiting := by
  obtain ⟨hkstate, hlatch⟩ | ⟨x, rfl⟩ := (exec_frame h).keyRead
  · rwa [hkstate, hlatch]
  · obtain ⟨-, rfl⟩ | ⟨-, -, rfl⟩ | ⟨_, -, -, rfl⟩ := exec_ldVxK_next h
    · exact fun _ _ => rfl
    · exact hs
    · exact fun _ hk => absurd hk nofun

theorem State.Inv.exec (hs : s.Inv) (h : exec i s = .next t) : t.Inv where
  mem := exec_keeps_mem_wf h hs.mem
  stack := exec_keeps_stack_bound h hs.stack
  latch := exec_keeps_latch_in_wait h hs.latch

/-- An event fills the latch in a wait only. -/
theorem State.Inv.beforeExec (hs : s.Inv) : s.beforeExec.Inv where
  mem := s.beforeExec_mem.symm ▸ hs.mem
  stack := s.beforeExec_stack.symm ▸ hs.stack
  latch := fun k hk => s.beforeExec_kstate.trans ((State.beforeExec_latch hk).elim (hs.latch k) id)

theorem State.Inv.runUnlessPaused (hs : s.Inv) (h : runUnlessPaused s = .next t) : t.Inv := by
  obtain rfl | ⟨_, -, hexec⟩ | ⟨-, _, _, rfl⟩ := runUnlessPaused_next h
  · exact hs
  · exact hs.exec hexec
  · exact ⟨hs.mem, hs.stack, hs.latch⟩

theorem State.Inv.render (hs : s.Inv) : s.render.Inv := ⟨hs.mem, hs.stack, hs.latch⟩

end Invariant

/-! ## The wait at the key read (46_keypad.md R163 corner case (e)) -/

section Wait

variable {s u : State}

/-- In a wait the executor runs the key read, which holds the state or ends the wait. -/
theorem runUnlessPaused_of_waiting (hs : s.WaitsAtKeyRead) (hwait : s.kstate = .waiting)
    (h : runUnlessPaused s = .next u) : u = s ∨ (u.kstate = .idle ∧ u.mem = s.mem) := by
  obtain ⟨x, hx⟩ := hs hwait
  obtain rfl | ⟨i, hi, hexec⟩ | ⟨hnone, -⟩ := runUnlessPaused_next h
  · exact .inl rfl
  · cases hi.symm.trans hx
    obtain ⟨hidle, -⟩ | ⟨-, -, rfl⟩ | ⟨k, -, -, rfl⟩ := exec_ldVxK_next hexec
    · exact absurd (hwait.symm.trans hidle) nofun
    · exact .inl rfl
    · exact .inr ⟨rfl, rfl⟩
  · cases hnone.symm.trans hx

/-- A wait is begun by a key read alone, which does nothing else. -/
theorem runUnlessPaused_begins_wait (hidle : s.kstate = .idle) (hwait : u.kstate = .waiting)
    (h : runUnlessPaused s = .next u) :
    u = { s with kstate := .waiting } ∧ ∃ x, decodeWord? s.fetchWord = some (.ldVxK x) := by
  have hne : u.kstate ≠ s.kstate := by simp [hidle, hwait]
  obtain rfl | ⟨i, hi, hexec⟩ | ⟨-, _, _, rfl⟩ := runUnlessPaused_next h
  · exact absurd rfl hne
  · obtain ⟨hkept, -⟩ | ⟨x, rfl⟩ := (exec_frame hexec).keyRead
    · exact absurd hkept hne
    · cases (exec_ldVxK_idle x hidle).symm.trans hexec
      exact ⟨rfl, x, hi⟩
  · exact absurd rfl hne

theorem State.WaitsAtKeyRead.beforeExec (hs : s.WaitsAtKeyRead) :
    s.beforeExec.WaitsAtKeyRead := by
  rw [State.WaitsAtKeyRead, s.beforeExec_kstate, s.beforeExec_fetchWord]
  exact hs

end Wait

/-! ## States that differ in the sound timer and the output record alone (R177)

A simulation: each part of a cycle takes two such states to two such states. -/

section Sound

variable {s t s' : State}

theorem SameButSound.elim (h : SameButSound s t) :
    ∃ T es, t = { s with ST := T, emitted := es } := ⟨_, _, h⟩

/-- What does not depend on these two parts is the same in both states. -/
theorem SameButSound.congr {α : Type} (h : SameButSound s t) (f : State → α)
    (hf : ∀ (u : State) (T : Timer) (es : List Emission),
      f { u with ST := T, emitted := es } = f u) : f t = f s := by
  obtain ⟨T, es, rfl⟩ := h.elim
  exact hf s T es

theorem SameButSound.applyEvent (h : SameButSound s t) (e : Event) :
    SameButSound (s.applyEvent e) (t.applyEvent e) := by
  obtain ⟨T, es, rfl⟩ := h.elim
  cases e with
  | keyDown c =>
    rw [State.applyEvent, State.applyEvent]
    cases keyOfCode c <;> rfl
  | keyUp c =>
    rw [State.applyEvent, State.applyEvent]
    cases keyOfCode c <;> rfl
  | _ => rfl

theorem SameButSound.applyEvents (h : SameButSound s t) (es : List Event) :
    SameButSound (s.applyEvents es) (t.applyEvents es) := by
  induction es generalizing s t with
  | nil => exact h
  | cons e es ih => exact ih (h.applyEvent e)

theorem SameButSound.poll (h : SameButSound s t) : SameButSound s.poll t.poll := by
  have hpending : t.pending = s.pending := h.congr State.pending fun _ _ _ => rfl
  cases hp : s.pending with
  | nil =>
    rw [State.poll_of_nil hp, State.poll_of_nil (hpending.trans hp)]
    obtain ⟨T, es, rfl⟩ := h.elim
    refine SameButSound.applyEvents ?_ _
    rfl
  | cons c cs =>
    rw [State.poll_of_cons hp, State.poll_of_cons (hpending.trans hp)]
    obtain ⟨T, es, rfl⟩ := h.elim
    refine SameButSound.applyEvents ?_ _
    rfl

theorem SameButSound.decayTimers (h : SameButSound s t) :
    SameButSound s.decayTimers t.decayTimers := by
  obtain ⟨T, es, rfl⟩ := h.elim
  rfl

theorem SameButSound.beforeExec (h : SameButSound s t) : SameButSound s.beforeExec t.beforeExec :=
  h.poll.decayTimers

theorem SameButSound.drawRand (h : SameButSound s t) :
    t.drawRand.1 = s.drawRand.1 ∧ SameButSound s.drawRand.2 t.drawRand.2 := by
  have hport : t.randPort = s.randPort := h.congr State.randPort fun _ _ _ => rfl
  cases hp : s.randPort with
  | nil =>
    rw [State.drawRand_nil hp, State.drawRand_nil (hport.trans hp)]
    obtain ⟨T, es, rfl⟩ := h.elim
    exact ⟨rfl, rfl⟩
  | cons b bs =>
    rw [State.drawRand_cons hp, State.drawRand_cons (hport.trans hp)]
    obtain ⟨T, es, rfl⟩ := h.elim
    exact ⟨rfl, rfl⟩

theorem SameButSound.writeReg (h : SameButSound s t) (x : Reg) (b : Byte) :
    SameButSound (s.writeReg x b) (t.writeReg x b) := by
  obtain ⟨T, es, rfl⟩ := h.elim
  rfl

/-- No instruction reads the sound timer or the record: the case of the one state is the case of the
other. -/
theorem SameButSound.exec {i : Instr} (h : SameButSound s t) (hexec : exec i s = .next s') :
    ∃ t', exec i t = .next t' ∧ SameButSound s' t' := by
  obtain ⟨T, es, rfl⟩ := h.elim
  cases i with
  | call nnn =>
    obtain ⟨hroom, rfl⟩ | ⟨hfull, rfl⟩ := exec_call_cases hexec
    · exact ⟨_, exec_call_room nnn hroom, rfl⟩
    · exact ⟨_, exec_call_full nnn hfull, rfl⟩
  | ret =>
    obtain ⟨below, a, htop, rfl⟩ | ⟨hempty, rfl⟩ := exec_ret_cases hexec
    · exact ⟨_, exec_ret_concat htop, rfl⟩
    · exact ⟨_, exec_ret_empty hempty, rfl⟩
  | ldVxK x =>
    obtain ⟨hidle, rfl⟩ | ⟨hwait, hempty, rfl⟩ | ⟨k, hwait, hlatch, rfl⟩ := exec_ldVxK_next hexec
    · exact ⟨_, exec_ldVxK_idle x hidle, rfl⟩
    · exact ⟨_, exec_ldVxK_waiting_empty x hwait hempty, rfl⟩
    · exact ⟨_, exec_ldVxK_waiting_latched x hwait hlatch, rfl⟩
  | rnd x kk =>
    cases hexec
    obtain ⟨hbyte, hrest⟩ := h.drawRand
    exact ⟨_, exec_rnd x kk _, hbyte ▸ hrest.writeReg x _⟩
  | _ =>
    cases hexec
    exact ⟨_, rfl, rfl⟩

theorem SameButSound.invoke (h : SameButSound s t) (hrun : invoke s = .next s') :
    ∃ t', invoke t = .next t' ∧ SameButSound s' t' := by
  have hfetch : t.fetchWord = s.fetchWord := h.congr State.fetchWord fun _ _ _ => rfl
  cases hi : decodeWord? s.fetchWord with
  | some i =>
    rw [invoke_of_decoded hi] at hrun
    rw [invoke_of_decoded (hfetch ▸ hi)]
    exact h.exec hrun
  | none =>
    rw [invoke_of_unknown hi, execUnknown_eq] at hrun
    rw [invoke_of_unknown (hfetch ▸ hi), execUnknown_eq]
    cases hrun
    obtain ⟨T, es, rfl⟩ := h.elim
    exact ⟨_, rfl, rfl⟩

theorem SameButSound.runUnlessPaused (h : SameButSound s t)
    (hrun : runUnlessPaused s = .next s') :
    ∃ t', runUnlessPaused t = .next t' ∧ SameButSound s' t' := by
  have hpaused : t.paused = s.paused := h.congr State.paused fun _ _ _ => rfl
  obtain hp | hp := Bool.eq_false_or_eq_true s.paused
  · cases (runUnlessPaused_paused hp).symm.trans hrun
    exact ⟨t, runUnlessPaused_paused (hpaused.trans hp), h⟩
  · rw [runUnlessPaused_running hp] at hrun
    rw [runUnlessPaused_running (hpaused.trans hp)]
    exact h.invoke hrun

theorem SameButSound.render (h : SameButSound s t) : SameButSound s.render t.render := by
  obtain ⟨T, es, rfl⟩ := h.elim
  rfl

end Sound

end Sys2Proof.Machine

namespace Sys2Proof

open Machine

/-! ## The obligations -/

/-- Settles O49: a cycle of a wait holds the state or ends the wait; a wait is begun by the key read
at the pc, which stays there. -/
theorem everyStepKeepsTheWaitAtItsKeyRead : Obligations.EveryStepKeepsTheWaitAtItsKeyRead := by
  intro s t hs hstep
  obtain ⟨-, -, u, hrun, rfl⟩ := step_next.1 hstep
  cases hk : s.kstate with
  | idle =>
    refine ⟨fun hwait => ?begins, nofun, nofun⟩
    case begins =>
      have hu : u.kstate = .waiting := hwait
      obtain ⟨rfl, x, hx⟩ := runUnlessPaused_begins_wait (s.beforeExec_kstate.trans hk) hu hrun
      exact ⟨x, hx⟩
  | waiting =>
    obtain rfl | ⟨hidle, hmem⟩ :=
      runUnlessPaused_of_waiting hs.beforeExec (s.beforeExec_kstate.trans hk) hrun
    · have hfetch : s.beforeExec.render.fetchWord = s.fetchWord := s.beforeExec_fetchWord
      exact ⟨hs.beforeExec, fun _ => s.beforeExec_mem, fun _ _ =>
        ⟨s.beforeExec_pc, hfetch, s.beforeExec_reg, fun _ hx => hfetch.symm ▸ hx⟩⟩
    · exact ⟨fun hwait => absurd (hwait.symm.trans hidle) nofun,
        fun _ => hmem.trans s.beforeExec_mem, fun _ hwait => absurd (hwait.symm.trans hidle) nofun⟩

/-- Settles O51: each part of a cycle keeps the invariant. -/
theorem everyStepKeepsTheInvariant : Obligations.EveryStepKeepsTheInvariant := by
  intro s t hs hstep
  obtain ⟨-, -, u, hrun, rfl⟩ := step_next.1 hstep
  exact (hs.beforeExec.runUnlessPaused hrun).render

/-- Settles O54: each part of a cycle takes two such states to two such states. -/
theorem theSoundTimerCannotBeObserved : Obligations.TheSoundTimerCannotBeObserved := by
  intro s t s' h hstep
  obtain ⟨hfault, hstop, u, hrun, rfl⟩ := step_next.1 hstep
  obtain ⟨v, hrun', hv⟩ := h.beforeExec.runUnlessPaused hrun
  have hfault' : t.fault = none := (h.congr State.fault fun _ _ _ => rfl).trans hfault
  have hstop' : t.stopped = false := (h.congr State.stopped fun _ _ _ => rfl).trans hstop
  exact ⟨v.render, step_next.2 ⟨hfault', hstop', v, hrun', rfl⟩, hv.render⟩

/-- Settles O8: once a cycle begins, its executor's part answers a next state. -/
theorem stepAnswersExactlyWhenACycleBegins : Obligations.StepAnswersExactlyWhenACycleBegins := by
  intro s
  refine ⟨⟨?begins, ?answers⟩, fun r => step_of_fault, step_of_stopped⟩
  case begins =>
    rintro ⟨t, hstep⟩
    obtain ⟨hfault, hstop, -⟩ := step_next.1 hstep
    exact ⟨hfault, hstop⟩
  case answers =>
    rintro ⟨hfault, hstop⟩
    obtain ⟨u, hrun⟩ := runUnlessPaused_total s.beforeExec
    exact ⟨u.render, step_next.2 ⟨hfault, hstop, u, hrun, rfl⟩⟩

/-- Settles O9: the frame of the poll and the decay, and the input the poll takes. -/
theorem pollAndDecayKeepTheProgramState : Obligations.PollAndDecayKeepTheProgramState := by
  intro s
  exact ⟨s.beforeExec_reg, s.beforeExec_I, s.beforeExec_pc, s.beforeExec_stack,
    bytesKept_of_mem_eq s.beforeExec_mem, s.beforeExec_fb, s.beforeExec_dirty, s.beforeExec_kstate,
    s.beforeExec_fault, s.beforeExec_randPort, s.beforeExec_DT, s.beforeExec_ST,
    fun _ _ => State.poll_input_of_cons, State.poll_input_of_nil⟩

/-- Settles O15: a poll folds the events over the state, and a press in a wait fills the latch,
which a release does not touch. -/
theorem eventsApplyInOrder : Obligations.EventsApplyInOrder := by
  refine ⟨fun s => ⟨rfl, rfl, rfl⟩, fun s => rfl, fun s e es => rfl,
    fun s es fs => List.foldl_append, fun s c cs => State.poll_of_cons, fun s k hwait => ?press⟩
  case press =>
    rw [State.applyEvents_press_release]
    exact ⟨State.setKey_keys_self _ false, State.pressKey_latch_waiting k hwait⟩

/-- Settles O17: the state after such a step is that of the fault entry, rendered. -/
theorem aFaultedMachineTakesNoFurtherStep : Obligations.AFaultedMachineTakesNoFurtherStep := by
  intro s t r hstep hr
  have hhalted := step_of_fault hr
  obtain ⟨c, rfl⟩ := step_enters_fault hstep hr
  cases hr
  exact ⟨s.beforeExec_pc, s.beforeExec_pc, s.beforeExec_stack, s.beforeExec_reg,
    bytesKept_of_mem_eq s.beforeExec_mem, hhalted⟩

/-- Settles O7: the bytes at the pc are the word the executor fetches after the poll and the
decay. -/
theorem stepRunsTheDecodedInstruction : Obligations.StepRunsTheDecodedInstruction := by
  intro s i hfault hstop hrunning hi
  have hstep := step_of_running hfault hstop hrunning hi
  refine ⟨s.beforeExec_pc, s.beforeExec_mem, fun t h => ?next, fun f h => ?fault,
    fun r h => ?refused⟩
  case next => rw [hstep, h, finishCycle]
  case fault => rw [hstep, h, finishCycle]
  case refused => rw [hstep, h, finishCycle]

end Sys2Proof
end

section
/-! PROOFS. Memory and reset (20_memory.md; 10_state.md R26; 70_reset_and_hazards.md R200, R201): a
canonical memory is determined by its bytes, and what machine reset makes. -/

namespace Sys2Proof.Machine

/-! ## Canonical memories (20_memory.md R40) -/

/-- The first listed byte of a canonical memory differs from the unlisted one. -/
theorem Memory.get_head_ne_unlisted {lo a : Nat} {b : Byte} {m : Memory}
    (h : Memory.wfFrom lo ((a, b) :: m) = true) :
    Memory.get ((a, b) :: m) a ≠ Memory.unlisted a := by
  obtain ⟨-, -, hb, -⟩ := Memory.wfFrom_cons.1 h
  rwa [Memory.get, if_pos rfl]

/-- Below its first listed address a canonical memory reads as unlisted. -/
theorem Memory.get_below_head {lo a c : Nat} {b : Byte} {m : Memory}
    (h : Memory.wfFrom lo ((a, b) :: m) = true) (hc : c < a) :
    Memory.get ((a, b) :: m) c = Memory.unlisted c := by
  obtain ⟨-, htail⟩ := Memory.wfFrom_cons.1 h
  exact Memory.get_of_lt (lo := a) (Memory.wfFrom_cons.2 ⟨le_rfl, htail⟩) hc

/-- Canonical memories that read the same list the same bytes: the lowest listed address of each is
listed in the other, with the same byte. -/
theorem Memory.eq_of_get_eq : ∀ {lo : Nat} {m m' : Memory}, Memory.wfFrom lo m = true →
    Memory.wfFrom lo m' = true → (∀ a < Config.memSize, m.get a = m'.get a) → m = m'
  | _, [], [], _, _, _ => rfl
  | _, [], (a, b) :: m', _, hm', h => by
    obtain ⟨-, ha, -⟩ := Memory.wfFrom_cons.1 hm'
    exact absurd (h a ha).symm (Memory.get_head_ne_unlisted hm')
  | _, (a, b) :: m, [], hm, _, h => by
    obtain ⟨-, ha, -⟩ := Memory.wfFrom_cons.1 hm
    exact absurd (h a ha) (Memory.get_head_ne_unlisted hm)
  | _, (a, b) :: m, (a', b') :: m', hm, hm', h => by
    obtain ⟨-, ha, -, htail⟩ := Memory.wfFrom_cons.1 hm
    obtain ⟨-, ha', -, htail'⟩ := Memory.wfFrom_cons.1 hm'
    obtain hlt | rfl | hgt := Nat.lt_trichotomy a a'
    · exact absurd ((h a ha).trans (Memory.get_below_head hm' hlt)) (Memory.get_head_ne_unlisted hm)
    · have hb : b = b' := by simpa [Memory.get] using h a ha
      have hrest : m = m' := by
        refine Memory.eq_of_get_eq htail htail' fun c hc => ?_
        obtain hgt | hle := Nat.lt_or_ge a c
        · have hne : c ≠ a := hgt.ne'
          simpa [Memory.get, hne] using h c hc
        · rw [Memory.get_of_lt htail (Nat.lt_succ_of_le hle),
            Memory.get_of_lt htail' (Nat.lt_succ_of_le hle)]
      rw [hb, hrest]
    · exact absurd ((h a' ha').symm.trans (Memory.get_below_head hm hgt))
        (Memory.get_head_ne_unlisted hm')

theorem Memory.eq_of_read_eq {m m' : Memory} (hm : m.wf = true) (hm' : m'.wf = true)
    (h : ∀ a < 4096, m.read a = m'.read a) : m = m' := by
  refine Memory.eq_of_get_eq hm hm' fun a ha => ?_
  have hread := h a ha
  rwa [Memory.read, Memory.read, Nat.mod_eq_of_lt ha] at hread

/-! ## Reset (10_state.md R26; 70_reset_and_hazards.md R200) -/

theorem Memory.read_nil {a : Nat} (ha : a < 4096) : Memory.read [] a = Memory.unlisted a := by
  rw [Memory.read, Config.memSize, Nat.mod_eq_of_lt ha, Memory.get]

/-- Reset with MEM_FILL zero and no program lists nothing: the font is what is unlisted below 80. -/
theorem bootMemory_zero_nil : bootMemory (fun _ => 0) [] = [] := by
  refine Memory.eq_of_read_eq (bootMemory_wf _ _) rfl fun a ha => ?_
  rw [Memory.read_nil ha]
  obtain hfont | hrest := Nat.lt_or_ge a fontTable.length
  · rw [bootMemory_font _ (Nat.zero_le _) hfont, Memory.unlisted, List.getElem?_eq_getElem hfont,
      Option.getD_some]
  · have h80 : 80 ≤ a := fontTable_length ▸ hrest
    rw [bootMemory_fill _ (program := []) (Nat.zero_le _) h80 ha (Nat.lt_or_ge a 0x200),
      Memory.unlisted, List.getElem?_eq_none hrest, Option.getD_none, Config.memFill]

theorem State.reset_reg (r : Reg) : State.reset.reg r = 0 := by
  simp [State.reg, State.reset]

theorem State.reset_keys (k : Key) : State.reset.keys[k] = false := by
  simp [State.reset]

end Sys2Proof.Machine

namespace Sys2Proof

open Machine

/-! ## The obligations -/

/-- Settles O55: below 4096 a read is a look-up, which determines a canonical memory. -/
theorem canonicalMemoriesWithEqualBytesAreEqual :
    Obligations.CanonicalMemoriesWithEqualBytesAreEqual :=
  fun _ _ hm hm' h => Memory.eq_of_read_eq hm hm' h

/-- Settles O56: the memory is `bootMemory`, the timers and the sample are the first sample's, and
everything else is as in `State.reset`. -/
theorem resetGivesTheResetTable : Obligations.ResetGivesTheResetTable := by
  intro fill program now0 hp
  have hglyph : ∀ {base : Nat}, base + 5 ≤ 80 → (bootMemory fill program).load base 5 =
      (fontTable.drop base).take 5 := bootMemory_glyph fill hp
  refine ⟨_, boot_ok fill now0 hp, State.reset_reg, rfl, rfl, rfl,
    fun a ha => bootMemory_font fill hp ha, fontTable_length,
    hglyph (by decide), hglyph (by decide), hglyph (by decide), hglyph (by decide),
    hglyph (by decide), hglyph (by decide), hglyph (by decide), hglyph (by decide),
    hglyph (by decide), hglyph (by decide), hglyph (by decide), hglyph (by decide),
    hglyph (by decide), hglyph (by decide), hglyph (by decide), hglyph (by decide),
    fun k hk => bootMemory_program fill hp hk, fun a h80 ha => ?between, fun a hend ha => ?after,
    bootMemory_wf fill program, rfl, rfl, rfl, fun idx _ => Framebuffer.cell_blank idx, rfl,
    State.reset_keys, rfl, rfl, rfl, rfl, rfl⟩
  case between => exact bootMemory_fill fill hp h80 (by omega) (.inl ha)
  case after => exact bootMemory_fill fill hp (by omega) ha (.inr hend)

/-- Settles O50: at reset nothing is listed, pushed or latched, and no key read waits. -/
theorem resetMeetsTheInvariant : Obligations.ResetMeetsTheInvariant :=
  ⟨⟨rfl, Nat.zero_le 16, nofun⟩, nofun⟩

/-- Settles O57: `boot` compares the program's length with MAX_PROGRAM. -/
theorem loadAcceptsExactlyProgramsThatFit : Obligations.LoadAcceptsExactlyProgramsThatFit :=
  fun fill _ now0 => ⟨fun hp => ⟨_, boot_ok fill now0 hp⟩, boot_error fill now0⟩

/-- Settles O58: `bootMemory_zero_nil` for the memory; the rest is `State.reset`. -/
theorem resetIsBootWithoutAProgram : Obligations.ResetIsBootWithoutAProgram := by
  rw [Obligations.ResetIsBootWithoutAProgram, boot_ok _ 0 (Nat.zero_le _), bootMemory_zero_nil]
  rfl

end Sys2Proof
end

section
/-! PROOFS. Two actions one after the other: CALL and its RET (40_flow_control.md), a store and the
load or the fetch after it (43_index_memory.md; 20_memory.md R52), two decays (44_random_timers.md
R134), and a sprite drawn twice (45_display.md). -/

namespace Sys2Proof.Machine

/-! ## Decay after decay (R134) -/

section Decay

variable {interval now m : Nat} (t : Timer)

theorem Timer.eq_of_count_of_last {t u : Timer} (hcount : t.count.toNat = u.count.toNat)
    (hlast : t.last = u.last) : t = u := by
  cases t
  cases u
  rw [Timer.mk.injEq]
  exact ⟨BitVec.eq_of_toNat_eq hcount, hlast⟩

/-- An earlier decay consumes some of the whole intervals and leaves the others. -/
theorem Timer.ticks_decay (h : m ≤ now) :
    t.ticks interval m + (t.decay interval m).ticks interval now = t.ticks interval now := by
  have hle : t.ticks interval m ≤ t.ticks interval now := by
    rw [Timer.ticks_eq_div, Timer.ticks_eq_div]
    exact Nat.div_le_div_right (Nat.sub_le_sub_right h _)
  have hrest : (t.decay interval m).ticks interval now =
      t.ticks interval now - t.ticks interval m := by
    rw [Timer.ticks_eq_div, Timer.decay_last, Nat.sub_add_eq, Nat.mul_comm, Nat.sub_mul_div,
      ← Timer.ticks_eq_div]
  rw [hrest, Nat.add_sub_cancel' hle]

theorem Timer.decay_decay (h : m ≤ now) :
    (t.decay interval m).decay interval now = t.decay interval now := by
  have hticks := t.ticks_decay (interval := interval) h
  apply Timer.eq_of_count_of_last
  · rw [Timer.decay_count, Timer.decay_count, Timer.decay_count, Nat.sub_sub, hticks]
  · rw [Timer.decay_last, Timer.decay_last, Timer.decay_last, Nat.add_assoc, ← Nat.add_mul, hticks]

theorem Timer.decay_foldl_decay (samples : List Nat) (h : ∀ m ∈ samples, m ≤ now) :
    (samples.foldl (fun u m => u.decay interval m) t).decay interval now =
      t.decay interval now := by
  induction samples generalizing t with
  | nil => rfl
  | cons m samples ih =>
    obtain ⟨hm, hsamples⟩ := List.forall_mem_cons.1 h
    exact (ih (t.decay interval m) hsamples).trans (t.decay_decay hm)

end Decay

/-! ## The cells a sprite lights (R151) -/

/-- A byte other than zero has a lit bit, counted from the most significant one. -/
theorem exists_lit_bit_iff_ne_zero (b : Byte) :
    (∃ col < 8, b.getLsbD (7 - col) = true) ↔ b ≠ 0 := by
  constructor
  · rintro ⟨col, -, hbit⟩ rfl
    simp at hbit
  · intro hne
    by_contra hno
    refine hne (BitVec.eq_of_getLsbD_eq fun j hj => ?_)
    have hunlit : b.getLsbD (7 - (7 - j)) ≠ true := fun hbit => hno ⟨7 - j, by omega, hbit⟩
    rw [show 7 - (7 - j) = j by omega] at hunlit
    exact (Bool.eq_false_of_not_eq_true hunlit).trans BitVec.getLsbD_zero.symm

/-- A sprite lights a cell exactly when one of its bytes is not zero. -/
theorem exists_spriteLights_iff {m : Memory} {x0 y0 : Byte} {addr : Word} {n : Nat} :
    (∃ idx, SpriteLights m x0 y0 addr n idx) ↔ ∃ row < n, m.read (addr.toNat + row) ≠ 0 := by
  constructor
  · rintro ⟨idx, row, hrow, col, hcol, -, hbit⟩
    exact ⟨row, hrow, (exists_lit_bit_iff_ne_zero _).1 ⟨col, hcol, hbit⟩⟩
  · rintro ⟨row, hrow, hne⟩
    obtain ⟨col, hcol, hbit⟩ := (exists_lit_bit_iff_ne_zero _).2 hne
    exact ⟨_, row, hrow, col, hcol, rfl, hbit⟩

section Draw

variable {m : Memory} {x0 y0 : Byte} {addr : Word} {n : Nat} (hn : n < 16) (fb : Framebuffer)
include hn

/-- Every cell is toggled by both draws or by neither. -/
theorem sprite_sprite_fst :
    (sprite m x0 y0 addr n (sprite m x0 y0 addr n fb).1).1 = fb := by
  refine Framebuffer.ext_cells fun idx hidx => ?_
  by_cases hlights : SpriteLights m x0 y0 addr n idx
  · rw [cell_sprite_of_spriteLights hn _ hlights, cell_sprite_of_spriteLights hn _ hlights,
      Bool.not_not]
  · rw [cell_sprite_of_not_spriteLights hn _ hidx hlights,
      cell_sprite_of_not_spriteLights hn _ hidx hlights]

variable {fb} (hblank : ∀ idx < 2048, fb.cell idx = false)
include hblank

theorem sprite_blank_collision : (sprite m x0 y0 addr n fb).2 = false := by
  rw [← Bool.not_eq_true, sprite_collision_iff hn]
  rintro ⟨idx, hidx, -, hcell⟩
  exact Bool.false_ne_true ((hblank idx hidx).symm.trans hcell)

/-- The second draw of a sprite on a blank framebuffer lands on the cells the first one lit. -/
theorem sprite_sprite_blank_collision_iff :
    (sprite m x0 y0 addr n (sprite m x0 y0 addr n fb).1).2 = true ↔
      ∃ row < n, m.read (addr.toNat + row) ≠ 0 := by
  rw [sprite_collision_iff hn, ← exists_spriteLights_iff]
  constructor
  · rintro ⟨idx, -, hlights, -⟩
    exact ⟨idx, hlights⟩
  · rintro ⟨idx, hlights⟩
    refine ⟨idx, hlights.lt, hlights, ?_⟩
    rw [cell_sprite_of_spriteLights hn _ hlights, hblank idx hlights.lt, Bool.not_false]

end Draw

/-! ## DRW by the sprite engine's two results (R153) -/

/-- What DRW leaves of a state: the engine's framebuffer, its collision bit in VF, and what a second
DRW reads. -/
theorem exec_drw_next (s : State) (x y : Reg) (n : Nat) : ∃ t, exec (.drw x y n) s = .next t ∧
    t.fb = (s.drawn x y n).1 ∧ t.reg 15 = collisionFlag (s.drawn x y n).2 ∧
    RegsExcept [15] s t ∧ t.mem = s.mem ∧ t.I = s.I :=
  ⟨_, exec_drw s x y n, rfl, State.reg_setFlag_flag _ _,
    State.setFlag_regsExcept { s with fb := (s.drawn x y n).1, dirty := true } _, rfl, rfl⟩

theorem collisionFlag_eq_one_iff (c : Bool) : collisionFlag c = 1 ↔ c = true := by
  cases c <;> decide

theorem collisionFlag_eq_zero_iff (c : Bool) : collisionFlag c = 0 ↔ c = false := by
  cases c <;> decide

end Sys2Proof.Machine

namespace Sys2Proof

open Machine

/-! ## The obligations -/

/-- Settles O22: RET reads of the state the stack alone, whose top is the CALL's pc. -/
theorem callThenReturnIsSymmetric : Obligations.CallThenReturnIsSymmetric := by
  intro nnn s hroom
  exact ⟨_, exec_call_room nnn hroom, fun u hu => ⟨_, exec_ret_concat hu, rfl, rfl⟩⟩

/-- Settles O37: the load (O36) reads the bytes the store (O35) left from the same `I` on. -/
theorem loadIsTheInverseOfStore : Obligations.LoadIsTheInverseOfStore := by
  intro x s hmem
  obtain ⟨-, t, hstore, -, hstored, -, -, -, hrest⟩ := registersAreStoredAtI x s hmem
  refine ⟨t, hstore, fun u humem huI => ?_⟩
  obtain ⟨-, v, hload, -, hloaded, -⟩ := registersAreLoadedFromI x u
  have htI : t.I = s.I := by rw [hrest]
  refine ⟨v, hload, fun r hr => ?_⟩
  calc v.reg r = u.mem.read (u.I.toNat + r.val) := hloaded r hr
    _ = t.mem.read (s.I.toNat + r.val) := by rw [humem, huI, htI]
    _ = s.reg r := hstored r hr

/-- Settles O38: the pc after the store (O35) is the `I` it stored from; the addition of 2 does not
carry past 65535, as `I` holds the sum. -/
theorem storesAreSeenByTheNextFetch : Obligations.StoresAreSeenByTheNextFetch := by
  intro x s hmem hx hI
  obtain ⟨-, t, hstore, hpc, hstored, -⟩ := registersAreStoredAtI x s hmem
  have hlt := s.I.isLt
  have hnext : t.pc.toNat = s.dataBase := by
    rw [hpc, BitVec.toNat_add, State.dataBase, hI]
    exact Nat.mod_eq_of_lt (hI ▸ hlt)
  refine ⟨t, hstore, ?_⟩
  rw [State.fetchWord, hnext]
  exact congrArg₂ wordOfBytes (hstored 0 (Fin.zero_le x)) (hstored 1 hx)

/-- Settles O41: `Timer.decay_decay` at every sample, and the count of whole intervals. -/
theorem timerRateIsIndependentOfSampling : Obligations.TimerRateIsIndependentOfSampling := by
  intro t samples now h
  refine ⟨t.decay_foldl_decay samples h, fun _ => ?_⟩
  rw [Timer.decay_count, Timer.ticks_eq_div]

/-- Settles O47: the second DRW runs the sprite engine with the operands of the first, as neither
coordinate is in VF. -/
theorem drawingTwiceRestoresTheFramebuffer : Obligations.DrawingTwiceRestoresTheFramebuffer := by
  intro x y n s hn hx hy
  obtain ⟨t, hexec, hfb, hflag, hregs, hmem, hI⟩ := exec_drw_next s x y n
  obtain ⟨u, hexec', hfb', hflag', -⟩ := exec_drw_next t x y n
  have hsame : t.drawn x y n = sprite s.mem (s.reg x) (s.reg y) s.I n (s.drawn x y n).1 := by
    rw [State.drawn, hfb, hmem, hI, hregs x (by simpa using hx), hregs y (by simpa using hy)]
  rw [hsame] at hfb' hflag'
  refine ⟨t, u, hexec, hexec', hfb'.trans (sprite_sprite_fst hn s.fb), fun hblank => ?_⟩
  have hagain : (sprite s.mem (s.reg x) (s.reg y) s.I n (s.drawn x y n).1).2 = true ↔
      ∃ row < n, s.mem.read (s.I.toNat + row) ≠ 0 :=
    sprite_sprite_blank_collision_iff hn hblank
  refine ⟨?first, ?collides, ?collidesNot⟩
  case first =>
    rw [hflag, collisionFlag_eq_zero_iff]
    exact sprite_blank_collision hn hblank
  case collides =>
    rw [hflag', collisionFlag_eq_one_iff, hagain]
  case collidesNot =>
    rw [hflag', collisionFlag_eq_zero_iff, ← Bool.not_eq_true, hagain]
    simp only [not_exists, not_and, not_not]

end Sys2Proof
end
